-- ==== Sys2Proof/Word.lean ====
section
/-! DEFINITION. Words of the block (R4 to R6), bit fields, and sparse tables. -/

namespace Sys2Proof

/-- A byte. -/
abbrev Byte := BitVec 8
/-- A halfword, 16 bits (R6). -/
abbrev Half := BitVec 16
/-- A word, 32 bits (R6). -/
abbrev Word := BitVec 32
/-- A doubleword, 64 bits (R6). -/
abbrev DWord := BitVec 64

/-- Field of `len` bits whose lowest bit is `lo`, as a number (R4). -/
def fld {n : Nat} (w : BitVec n) (lo len : Nat) : Nat := (w.toNat >>> lo) % 2 ^ len

/-- A single bit (R4). -/
def bit {n : Nat} (w : BitVec n) (i : Nat) : Bool := w.getLsbD i

/-- The word whose bits `lo .. lo + len - 1` are 1 and all others 0. -/
def ones {n : Nat} (lo len : Nat) : BitVec n := BitVec.ofNat n ((2 ^ len - 1) <<< lo)

/-- `w` with the field of `len` bits at `lo` replaced by `v`. -/
def ins {n : Nat} (w : BitVec n) (lo len v : Nat) : BitVec n :=
  (w &&& ~~~(ones lo len)) ||| (BitVec.ofNat n (v <<< lo) &&& ones lo len)

/-- `w` with bit `i` replaced by `b`. -/
def insBit {n : Nat} (w : BitVec n) (i : Nat) (b : Bool) : BitVec n := ins w i 1 (cond b 1 0)

/-- A sparse table: pairs of a key and a value. A key that is not listed has the table's default. -/
abbrev Tab (α : Type) := List (Nat × α)

/-- The value at key `i`, or the default `d` when `i` is not listed. -/
def Tab.get {α : Type} (d : α) : Tab α → Nat → α
  | [], _ => d
  | (k, v) :: t, i => if k = i then v else Tab.get d t i

/-- The table with `v` at key `i`, in rising order of keys. -/
def Tab.put {α : Type} (i : Nat) (v : α) : Tab α → Tab α
  | [] => [(i, v)]
  | (k, w) :: t => if i < k then (i, v) :: (k, w) :: t else if i = k then (i, v) :: t else (k, w) :: Tab.put i v t

/-- The table without key `i`. -/
def Tab.del {α : Type} (i : Nat) : Tab α → Tab α
  | [] => []
  | (k, w) :: t => if k = i then Tab.del i t else (k, w) :: Tab.del i t

/-- The table with value `v` at key `i`; a value equal to the default is not listed. -/
def Tab.set {α : Type} [DecidableEq α] (d : α) (t : Tab α) (i : Nat) (v : α) : Tab α :=
  if v = d then Tab.del i t else Tab.put i v t

/-- The entries of the table whose keys satisfy `p`, dropped. -/
def Tab.drop {α : Type} (p : Nat → Bool) : Tab α → Tab α
  | [] => []
  | (k, w) :: t => if p k then Tab.drop p t else (k, w) :: Tab.drop p t

/-- Every listed key is above `b`, keys rise strictly and no listed value is the default `d` of its key. -/
def Tab.above {α : Type} [DecidableEq α] (d : Nat → α) : Nat → Tab α → Bool
  | _, [] => true
  | b, (k, w) :: t => decide (b < k) && decide (w ≠ d k) && Tab.above d k t

/-- The canonical form of a table whose key `k` has the default `d k`: keys strictly rising, no listed value equal to
the default of its key. -/
def Tab.wf {α : Type} [DecidableEq α] (d : Nat → α) : Tab α → Bool
  | [] => true
  | (k, w) :: t => decide (w ≠ d k) && Tab.above d k t

/-- `f` applied to the state once for each number of a list, in order. -/
def each {σ ι : Type} (l : List ι) (f : ι → σ → σ) (s : σ) : σ := l.foldl (fun s i => f i s) s

/-- The numbers `i` below `n` for which `p i` holds, in rising order. -/
def below (n : Nat) (p : Nat → Bool) : List Nat := (List.range n).filter p

/-- 1 for true and 0 for false. -/
def b2n (b : Bool) : Nat := cond b 1 0

/-- The word of a number (modulo 2^32). -/
def w32 (n : Nat) : Word := BitVec.ofNat 32 n

end Sys2Proof
end

