-- ==== Sys2Proof/Config.lean ====
section
/-! DEFINITION. Figures that the spec fixes for the block, and the values it leaves free (opaque, with no value). -/

namespace Sys2Proof.Config

/-- Words of the unit ROM control store: microaddresses 0x000 to 0x7FF are readable through CSDATA (R129), and the
spec gives their contents no value (R114). Free values; DESIGN CHOICE, log entry 12. -/
opaque romWord : Nat → BitVec 128

/-- The n-th draw of 48 bytes from the Safelight's entropy source, conditioned with SHA-384 (R367). Free values; log
entry 13. DESIGN CHOICE; log entry 13. -/
opaque entropy : Nat → BitVec 384

/-- Whether the regulator output is in range in the n-th cycle drawn in a power-on reset of the Safelight (R341). Free values;
DESIGN CHOICE, log entry 26. -/
opaque inRange : Nat → Bool

/-- PCLVL of a group of power-up steps, given by their domains, that is not one of a wake (R393, R432). Free values; DESIGN
CHOICE, log entry 70. -/
opaque groupLevel : List Nat → BitVec 4

/-- SRC of the flits that DMA channel n of cluster c sends, at 8 c + n; R414 names only units as requesters. Free values;
DESIGN CHOICE, log entry 14. -/
opaque dmaSrc : Nat → BitVec 8

/-- The instruction that makes the n-th register read of a unit that a command gives as an access to the register
alone (R135, R186). Free values; DESIGN CHOICE, log entry 58. -/
opaque loadIns : Nat → BitVec 32

/-- Number of the first cell of the n-th frame that the frame path stores: which free cells a frame takes is nowhere
stated (R201, R215). Free values; DESIGN CHOICE, log entry 34. -/
opaque firstCell : Nat → BitVec 14

/-- PCP and VID that an untagged frame of the cluster port of a cluster takes: FPPVID belongs to frame ports alone (R197,
R207). Free values; DESIGN CHOICE, log entry 15. -/
opaque cpPvid : Nat → BitVec 15

/-- Number of units of a die (R18). -/
def units : Nat := 144
/-- Number of Reels of a die (R18). -/
def reels : Nat := 80
/-- Cells of the frame buffer (R215). -/
def cells : Nat := 16384
/-- Depth of the unit store buffer (R95). -/
def storeBuffer : Nat := 8
/-- Hardware entries of the return stack (R55). -/
def returnStack : Nat := 16
/-- Entries of the TLB, locked ones included (R312). -/
def tlbEntries : Nat := 32
/-- Depth of the log intake queue (R350). -/
def logIntake : Nat := 32
/-- Records of the log (R348). -/
def logRecords : Nat := 512
/-- Entries of an egress timestamp FIFO (R223). -/
def egressFifo : Nat := 16
/-- Block version code (R1). -/
def blockVersion : Nat := 0x0201

end Sys2Proof.Config
end

