-- ==== Sys2Proof/Syntax.lean ====
section
/-! DEFINITION. The commands: one constructor per row of opcode_table.json, with its operands. -/

namespace Sys2Proof

/-- A unit by its physical global index 9c + u, u = 8 the spare (R11). -/
abbrev UnitIx := Fin 144
/-- A cluster of the die (R11). -/
abbrev ClusterIx := Fin 16
/-- A region of the die (R11). -/
abbrev RegionIx := Fin 4
/-- A Reel by its index 5c + e, e = 4 the spare (R11). -/
abbrev ReelIx := Fin 80
/-- A channel slot of a Reel (R11). -/
abbrev SlotIx := Fin 16

/-- Who makes a register page access (R418). -/
inductive Master
  | host
  | mgmt
  | unit (p : UnitIx)
  | loupe
  deriving DecidableEq, Repr

/-- An instruction as it is encoded: one halfword, or the instruction word I of a 32-bit instruction (R65, R66). -/
inductive Enc
  | c16 (h : Half)
  | w32 (i : Word)
  deriving DecidableEq, Repr

/-- The fields of format R (R69): `rsv` is I[21:16]. -/
structure RF where
  rs1 : BitVec 5
  rs2 : BitVec 5
  rsv : BitVec 6
  rd : BitVec 5
  deriving DecidableEq, Repr

/-- The fields of format I and format M (R69). -/
structure IF where
  rs1 : BitVec 5
  rd : BitVec 5
  imm : BitVec 15
  deriving DecidableEq, Repr

/-- Operands of an instruction with a 16-bit register form CR and a 32-bit form R (R68, R69). -/
inductive RegForm
  | c (rd rs : BitVec 4)
  | r (f : RF)
  deriving DecidableEq, Repr

/-- Operands of ADDI (R71, R73). -/
inductive AddiForm
  | c (rd : BitVec 4) (simm : BitVec 7)
  | i (f : IF)
  deriving DecidableEq, Repr

/-- Operands of a shift: register counts (CR, R) and immediate counts (CS, I) (R90). In the 32-bit immediate form
`hi` is the reserved imm[14:7] (R73). -/
inductive ShiftForm
  | c (rd rs : BitVec 4)
  | r (f : RF)
  | cs (rd : BitVec 4) (sh : BitVec 5)
  | i (rs1 rd : BitVec 5) (hi : BitVec 8) (sh : BitVec 5)
  deriving DecidableEq, Repr

/-- Operands of LW and SW: CM with a 3-bit scaled immediate, or format M (R71, R73). -/
inductive WordForm
  | c (rt rb : BitVec 4) (imm : BitVec 3)
  | m (f : IF)
  deriving DecidableEq, Repr

/-- Operands of LHU, LBU, SH and SB: CM with a 1-bit scaled immediate, or format M (R71, R73). -/
inductive SubForm
  | c (rt rb : BitVec 4) (imm : BitVec 1)
  | m (f : IF)
  deriving DecidableEq, Repr

/-- Operands of an atomic: CM with reserved bit [0], or format R (R71, R73). -/
inductive AmoForm
  | c (rt rb : BitVec 4) (rsv : BitVec 1)
  | r (f : RF)
  deriving DecidableEq, Repr

/-- Operands of B.cond: CB, or format B with reserved bit [4] (R68, R69). -/
inductive BranchForm
  | c (cond : BitVec 4) (off : BitVec 7)
  | b (cond : BitVec 4) (rsv : BitVec 1) (off : BitVec 20)
  deriving DecidableEq, Repr

/-- Operands of J and CALL: CJ or format J (R68, R69). -/
inductive JumpForm
  | c (off : BitVec 11)
  | j (off : BitVec 25)
  deriving DecidableEq, Repr

/-- Operands of JR and CALLR: CY with field [2:0], or format R with rd and rs2 reserved (R72, R73). -/
inductive JrForm
  | c (rs : BitVec 4) (rsv : BitVec 3)
  | r (f : RF)
  deriving DecidableEq, Repr

/-- Operands of MFS and MTS: CP with reserved bit [5], or format R with spec in [26:22] and rs1 reserved (R68, R73). -/
inductive SprForm
  | c (g : BitVec 4) (rsv : BitVec 1) (spec : BitVec 5)
  | r (f : RF)
  deriving DecidableEq, Repr

/-- Operands of the C.SYS instructions that name no register: CY with [10:7] and [2:0], or format R (R72, R74). -/
inductive SysForm
  | c (r47 : BitVec 4) (rsv : BitVec 3)
  | r (f : RF)
  deriving DecidableEq, Repr

/-- Operands of TRAP: CT with reserved [10:8], or format R with [31:24], rd and fn reserved (R68, R73). -/
inductive TrapForm
  | c (rsv : BitVec 3) (n : BitVec 8)
  | r (hi n : BitVec 8) (rd : BitVec 5) (fn : BitVec 4)
  deriving DecidableEq, Repr

/-- Operands of NOP, and the encodings that no row assigns: R76 refuses those with ILLOP UNDEF. -/
inductive NopForm
  | sys (f : SysForm)
  | raw (e : Enc)
  deriving DecidableEq, Repr

/-- The fields of a customer instruction (R69, R78, R79): `hi` is I[31:16], `rd` I[8:4], `lo` I[1:0]. -/
structure CxF where
  slot : BitVec 5
  hi : Half
  rd : BitVec 5
  lo : BitVec 2
  deriving DecidableEq, Repr

/-- The fields of a Reel instruction word below OP (R166). -/
structure RI where
  i : BitVec 1
  mode : BitVec 2
  d : BitVec 3
  s : BitVec 3
  pin : BitVec 2
  imm : Half
  deriving DecidableEq, Repr

/-- A time-driven list: a stream gate list, the gate control list of a frame port, or a region schedule
(R212, R218, R256). -/
inductive ListId
  | gate (g : Fin 128)
  | port (i : Fin 16)
  | region (r : RegionIx)
  deriving DecidableEq, Repr

/-- A frame as a frame port receives it: its bytes from DA to FCS as sent, the byte during which the PHY indicated an error,
if any, the time base at the word clock edge that carries the first DA byte, in ns and 2^-16 ns, and that byte's lane
(R198, R222). -/
structure RxFrame where
  bytes : List Byte
  phyErr : Option Nat
  ts : DWord
  frac : Half
  lane : Fin 4
  deriving DecidableEq, Repr

/-- The fields of a die-link flit below KIND (R414). `rsv` holds the reserved bits [243:240] and [206:64]. -/
structure Flit where
  src : BitVec 8
  region : BitVec 2
  off : BitVec 21
  be : BitVec 8
  resp : BitVec 2
  data : DWord
  rsv : BitVec 147
  deriving DecidableEq, Repr

/-- The scope of a reset that is released after 64 fabric cycles (R396). -/
inductive Scope
  | region (r : RegionIx)
  | cluster (c : ClusterIx)
  | unit (p : UnitIx)
  | reel (r : ReelIx)
  deriving DecidableEq, Repr

/-- The 13 straps in the layout of IDSTRAP (R426): NODE, DIE, PKG, BOOT, PAR. -/
abbrev Straps := BitVec 13

/-- The commands of the block: one constructor per row of opcode_table.json, in its order. -/
inductive Instr
  -- Laile register operations (R89, R90)
  | add (p : UnitIx) (f : RegForm)
  | sub (p : UnitIx) (f : RegForm)
  | adc (p : UnitIx) (f : RF)
  | sbc (p : UnitIx) (f : RF)
  | and (p : UnitIx) (f : RegForm)
  | or (p : UnitIx) (f : RegForm)
  | xor (p : UnitIx) (f : RegForm)
  | andn (p : UnitIx) (f : RF)
  | cmp (p : UnitIx) (f : RegForm)
  | tst (p : UnitIx) (rd rs : BitVec 4)
  | slt (p : UnitIx) (f : RF)
  | sltu (p : UnitIx) (f : RF)
  | neg (p : UnitIx) (f : RegForm)
  | mov (p : UnitIx) (rd rs : BitVec 4)
  | addi (p : UnitIx) (f : AddiForm)
  | andi (p : UnitIx) (f : IF)
  | ori (p : UnitIx) (f : IF)
  | xori (p : UnitIx) (f : IF)
  | cmpi (p : UnitIx) (f : IF)
  | movi (p : UnitIx) (rd : BitVec 4) (simm : BitVec 7)
  | lui (p : UnitIx) (rd : BitVec 5) (imm : BitVec 20)
  | addpc (p : UnitIx) (rd : BitVec 5) (imm : BitVec 20)
  | shl (p : UnitIx) (f : ShiftForm)
  | shr (p : UnitIx) (f : ShiftForm)
  | sar (p : UnitIx) (f : ShiftForm)
  | ror (p : UnitIx) (f : ShiftForm)
  -- multiply and divide (R91, R92)
  | mul (p : UnitIx) (f : RegForm)
  | mulu (p : UnitIx) (f : RegForm)
  | productWrite (p : UnitIx)
  | div (p : UnitIx) (f : RF)
  | divu (p : UnitIx) (f : RF)
  | rem (p : UnitIx) (f : RF)
  | remu (p : UnitIx) (f : RF)
  | divideComplete (p : UnitIx)
  -- loads, stores, stacks, atomics (R93 to R98)
  | lw (p : UnitIx) (f : WordForm)
  | lh (p : UnitIx) (f : IF)
  | lhu (p : UnitIx) (f : SubForm)
  | lb (p : UnitIx) (f : IF)
  | lbu (p : UnitIx) (f : SubForm)
  | sw (p : UnitIx) (f : WordForm)
  | sh (p : UnitIx) (f : SubForm)
  | sb (p : UnitIx) (f : SubForm)
  | push (p : UnitIx) (rs : BitVec 4) (rsv : BitVec 3)
  | pop (p : UnitIx) (rs : BitVec 4) (rsv : BitVec 3)
  | amoadd (p : UnitIx) (f : AmoForm)
  | amoswp (p : UnitIx) (f : AmoForm)
  | ldp (p : UnitIx) (f : IF)
  -- branches, calls, loops (R99, R100)
  | bCond (p : UnitIx) (f : BranchForm)
  | j (p : UnitIx) (f : JumpForm)
  | call (p : UnitIx) (f : JumpForm)
  | jr (p : UnitIx) (f : JrForm)
  | callr (p : UnitIx) (f : JrForm)
  | ret (p : UnitIx) (r47 : BitVec 4) (rsv : BitVec 3)
  | loop (p : UnitIx) (f : IF)
  -- special registers, events, time, blocks, system (R101 to R112)
  | mfs (p : UnitIx) (f : SprForm)
  | mts (p : UnitIx) (f : SprForm)
  | wfe (p : UnitIx) (f : SysForm)
  | sevC (p : UnitIx) (f : RF)
  | sevR (p : UnitIx) (f : RF)
  | eventDelivery (p : UnitIx)
  | waitt (p : UnitIx) (f : RF)
  | waittTargetReached (p : UnitIx)
  | bcopy (p : UnitIx) (f : RF)
  | bfill (p : UnitIx) (f : RF)
  | bcrc (p : UnitIx) (f : RF)
  | fence (p : UnitIx) (f : SysForm)
  | ckpt (p : UnitIx) (f : SysForm)
  | checkpointComplete (p : UnitIx)
  | trap (p : UnitIx) (f : TrapForm)
  | eret (p : UnitIx) (f : SysForm)
  | tlbinv (p : UnitIx) (f : RF)
  | tlbinvAll (p : UnitIx) (f : RF)
  | nop (p : UnitIx) (f : NopForm)
  | customerInstruction (p : UnitIx) (f : CxF)
  | exceptionEntry (p : UnitIx)
  | uirqSourcePending (p : UnitIx) (src : Fin 32)
  | storeBufferDrain (p : UnitIx)
  | hostResponse (id : BitVec 8) (wr : Bool) (code : BitVec 2) (data : BitVec 256)
  | hostTimeout (id : BitVec 8)
  -- control store pages (R129)
  | csdata3Write (m : Master) (c : ClusterIx) (v : Word)
  | csdata0Read (m : Master) (c : ClusterIx)
  | csdata3Read (m : Master) (c : ClusterIx)
  | csctlRead (m : Master) (c : ClusterIx)
  -- Reel instructions (R167); `r` is the physical Reel
  | reelNop (r : ReelIx) (k : SlotIx) (w : Word)
  | ldi (r : ReelIx) (k : SlotIx) (f : RI)
  | ldhi (r : ReelIx) (k : SlotIx) (f : RI)
  | reelMov (r : ReelIx) (k : SlotIx) (f : RI)
  | alua (r : ReelIx) (k : SlotIx) (f : RI)
  | alub (r : ReelIx) (k : SlotIx) (f : RI)
  | sample (r : ReelIx) (k : SlotIx) (f : RI)
  | shin (r : ReelIx) (k : SlotIx) (f : RI)
  | shout (r : ReelIx) (k : SlotIx) (f : RI)
  | drive (r : ReelIx) (k : SlotIx) (f : RI)
  | oe (r : ReelIx) (k : SlotIx) (f : RI)
  | waitpin (r : ReelIx) (k : SlotIx) (f : RI)
  | waittime (r : ReelIx) (k : SlotIx) (f : RI)
  | waitbit (r : ReelIx) (k : SlotIx) (f : RI)
  | jmp (r : ReelIx) (k : SlotIx) (f : RI)
  | djnz (r : ReelIx) (k : SlotIx) (f : RI)
  | reelPush (r : ReelIx) (k : SlotIx) (f : RI)
  | pull (r : ReelIx) (k : SlotIx) (f : RI)
  | crc (r : ReelIx) (k : SlotIx) (f : RI)
  | irq (r : ReelIx) (k : SlotIx) (f : RI)
  | tstamp (r : ReelIx) (k : SlotIx) (f : RI)
  | setbt (r : ReelIx) (k : SlotIx) (f : RI)
  | hsync (r : ReelIx) (k : SlotIx) (f : RI)
  | stop (r : ReelIx) (k : SlotIx) (f : RI)
  -- pads, sampler, channel control, queues; `n` is the number of the Reel page (R425)
  | padEdge (pad : Fin 512) (level : Bool)
  | samplePoint (r : ReelIx) (k : SlotIx)
  | bitBoundary (r : ReelIx) (k : SlotIx)
  | channelStart (m : Master) (n : ReelIx) (k : SlotIx) (v : Word)
  | channelStop (m : Master) (n : ReelIx) (k : SlotIx) (v : Word)
  | crst (m : Master) (n : ReelIx) (k : SlotIx) (v : Word)
  | smpcfgWrite (m : Master) (n : ReelIx) (k : SlotIx) (v : Word)
  | txdWrite (m : Master) (n : ReelIx) (k : SlotIx) (v : Word)
  | rxdRead (m : Master) (n : ReelIx) (k : SlotIx)
  | rxdropRead (m : Master) (n : ReelIx) (k : SlotIx)
  | inject (m : Master) (n : ReelIx) (k : SlotIx) (v : Word)
  | qjoinWrite (m : Master) (n : ReelIx) (v : Word)
  | programWordWrite (m : Master) (n : ReelIx) (w : Fin 512) (v : Word)
  | programWordRead (m : Master) (n : ReelIx) (w : Fin 512)
  | ssctlArm (m : Master) (r : RegionIx) (v : Word)
  | startCycle (r : RegionIx)
  -- frame path (R197 to R241)
  | frameReceive (port : Fin 16) (fr : RxFrame)
  | egressSelection (port : Fin 16)
  | transmissionEnd (port : Fin 16)
  | fpLinkDown (port : Fin 16)
  | fpcfgWrite (m : Master) (port : Fin 16) (v : Word)
  | txDescriptor (c : ClusterIx)
  | clusterPortDelivery (c : ClusterIx)
  | tableRead (m : Master) (stage : Fin 10)
  | tableWrite (m : Master) (stage : Fin 10)
  | gateListChange (l : ListId)
  | listSwap (l : ListId)
  | scheduleRowChange (l : ListId)
  | egtagRead (m : Master) (port : Fin 16)
  | fxstgRead (m : Master) (stage : Fin 8)
  -- time (R244 to R262)
  | step (m : Master) (v : Word)
  | timeStep
  | slew (m : Master) (v : Word)
  | slewEnd
  | tbincWrite (m : Master) (v : Word)
  | tbnowlRead (m : Master)
  | timePulse (n : Fin 2)
  | timePulseCapture (n : Fin 2) (level : Bool)
  | tpcaplRead (m : Master) (n : Fin 2)
  | rsctlChange (m : Master) (r : RegionIx) (v : Word)
  | csArm (m : Master) (v : Word)
  | snap
  | csshloRead (m : Master)
  -- banks, DMA, Shutter, march test (R273 to R289)
  | bkstatRead (m : Master) (c : ClusterIx) (b : Fin 8)
  | bkcollRead (m : Master) (c : ClusterIx) (b : Fin 8)
  | bkuncRead (m : Master) (c : ClusterIx) (b : Fin 8)
  | bkconfRead (m : Master) (c : ClusterIx) (b : Fin 8) (n : Fin 20)
  | dmaStart (m : Master) (c : ClusterIx) (n : Fin 8) (v : Word)
  | dmaBurst (c : ClusterIx) (n : Fin 8) (meets : List Nat)
  | dmaStop (m : Master) (c : ClusterIx) (n : Fin 8) (v : Word)
  | shacq (m : Master) (c : ClusterIx) (n : BitVec 6)
  | shrel (m : Master) (c : ClusterIx) (n : BitVec 6)
  | shcan (m : Master) (c : ClusterIx)
  | shfrelForce (m : Master) (c : ClusterIx) (n : BitVec 6)
  | lockGrant (c : ClusterIx) (n : Fin 64)
  | mtctlGo (m : Master) (c : ClusterIx) (v : Word)
  | marchTestStop (m : Master) (c : ClusterIx) (v : Word)
  | chunkPass (c : ClusterIx) (bad : List (Nat × Nat)) (yielded : Bool)
  | chunkRetry (c : ClusterIx)
  | marchTestEnd (c : ClusterIx) (bad : List (Nat × Nat × Nat))
  | mtstatRead (m : Master) (c : ClusterIx)
  | mtcntRead (m : Master) (c : ClusterIx)
  | bankClearComplete (c : ClusterIx) (b : Fin 8)
  | regionMemoryClearComplete (r : RegionIx) (group : Fin 4)
  -- takeover and checkpoints (R294 to R304)
  | uforce (m : Master) (c : ClusterIx) (v : Word)
  | rforce (m : Master) (c : ClusterIx) (v : Word)
  | unitTakeover (c : ClusterIx) (regErr : List (Fin 8))
  | reelTakeover (c : ClusterIx) (mismatch : List (Fin 5))
  | ngretWrite (m : Master) (c : ClusterIx) (e : Fin 5) (k : SlotIx) (v : Word)
  -- host window registers and watchdogs (R307 to R313, R353 to R355); `g` is the number of the unit page
  | hwbWrite (m : Master) (g : UnitIx) (n : Fin 8) (w : Fin 4) (v : Word)
  | invall (m : Master) (g : UnitIx)
  | invva (m : Master) (g : UnitIx)
  | tlblkWrite (m : Master) (g : UnitIx) (n : Fin 4) (v : Word)
  | uwdkick (m : Master) (g : UnitIx) (v : Word)
  | uwdctlWrite (m : Master) (g : UnitIx) (v : Word)
  | watchdogWarn (p : UnitIx)
  | wdtBite (p : UnitIx)
  | swdkick (m : Master) (v : Word)
  | swdctlWrite (m : Master) (v : Word)
  | swdwarn
  | syswdtBite
  | swdbadRead (m : Master)
  -- Developer, recovery, update, key store (R329 to R360); `bad`: the number of the OTP bit or flash
  -- byte that does not read back;
  -- `timeout`, `scan` (records, then headers) and `exam`: reads of the boot flash that time out, by slot
  | developerSequence (scan : BitVec 4) (exam : BitVec 2) (bad : Option Nat)
  | confirm (m : Master) (bad : Option Nat)
  | revoke (m : Master) (bad : Option Nat)
  | lifeadv (m : Master) (bad : Option Nat)
  | dvcmdUnknown (m : Master) (cmd : Byte)
  | dvcmdDone
  | rcdataWrite (m : Master) (v : Word)
  | boot (m : Master)
  | keyprog (m : Master) (bad : Option Nat)
  | rccmdUnknown (m : Master) (cmd : Byte)
  | rccmdDone
  | begin (m : Master) (timeout : Bool)
  | erase (m : Master) (timeout : Bool)
  | prog (m : Master) (timeout : Bool) (bad : Option Nat)
  | finish (m : Master) (timeout : Bool) (bad : Option Nat)
  | abort (m : Master)
  | upcmdUnknown (m : Master) (cmd : BitVec 3)
  | updateCommandDone
  | load (m : Master) (v : Word)
  | clear (m : Master) (v : Word)
  | zeroall (m : Master) (v : Word)
  | mac (m : Master) (v : Word)
  | kscmdUnknown (m : Master) (v : Word)
  | keyStoreCommandDone
  | tamper (mask : BitVec 4)
  -- Safelight (R342 to R358)
  | safeset (m : Master) (v : Word)
  | safeclr (m : Master) (v : Word)
  | slstatRead (m : Master)
  | temperatureSample (n : Fin 20) (value : Half)
  | voltageSample (n : Fin 8) (value : Half)
  -- `inTol` counts for a domain whose frequency the spec leaves to the integrator
  | clockMonitor (d : Fin 42) (inTol : Bool) (count : Word)
  | xtalCheck (good : Bool)
  | mgmtRestart
  | slAliveToggle
  | logRecordWrite
  | logFlush
  | logstatRead (m : Master)
  -- a sample of the wake pads on the slow clock (R356)
  | wakePad (pads : BitVec 16)
  | wksw (m : Master) (v : Word)
  | wakeAlarm
  | presenceResponse (m : Master) (page : BitVec 14) (write : Bool)
  -- Loupe and debug (R361 to R375)
  | loupePulse (n : Nat) (early : Bool)
  | loupeFrameTimeout
  | loupeReset
  | rd (cmd : Byte) (off : BitVec 10) (crc : Byte)
  | wr (off : BitVec 10) (v : Word) (crc : Byte)
  | knock
  | respond
  | responseCheck
  | darkslide
  | close
  | challengeTimeout
  | sessionTimeout
  | lpsessRead (m : Master)
  | lperrRead (m : Master)
  | lpreqReq (unit : Byte)
  | lpreqAll
  | lpmbtxWrite (v : Word)
  | lpmbrxRead
  | dbgmboutWrite (p : UnitIx) (v : Word)
  | dbgmbinRead (p : UnitIx)
  -- power, clocks, reset (R383 to R397)
  | pwctlGo (m : Master) (v : Word)
  | powerTransitionStep (timeout : Bool)
  | pwrel (m : Master) (v : Word)
  | ckudivWrite (m : Master) (v : Word)
  | pcack
  | ckack (sig : Fin 7)
  | ckackDrop (sig : Fin 7)
  | pcslpreq
  | coreOkFall
  | corePowerOnReset (straps : Straps)
  | safelightPowerOnReset
  | safelightPorRelease (straps : Straps)
  | warmReset (m : Master)
  | regionReset (m : Master) (r : RegionIx)
  | clusterReset (m : Master) (c : ClusterIx)
  | unitReset (m : Master) (g : UnitIx)
  | reelReset (m : Master) (n : ReelIx)
  | rstctlRefused (m : Master) (v : Word)
  | resetRelease (sc : Scope)
  -- die links (R34 to R39, R248, R262, R414)
  | dlLinkUp (j : Fin 3)
  | dlLinkDown (j : Fin 3)
  | helloFlit (j : Fin 3) (f : Flit)
  | timeFlit (j : Fin 3) (f : Flit) (halfTrip : Nat)
  | readFlit (j : Fin 3) (f : Flit)
  | writeFlit (j : Fin 3) (f : Flit)
  | amoaddFlit (j : Fin 3) (f : Flit)
  | amoswpFlit (j : Fin 3) (f : Flit)
  | responseFlit (j : Fin 3) (f : Flit)
  | snapFlit (j : Fin 3) (f : Flit)
  | badFlit (j : Fin 3) (kind : BitVec 4) (f : Flit)
  -- interrupt lines and the common page header (R409, R419 to R422), and the last rows
  | hostInterruptLine (n : Fin 64)
  | softReset (m : Master) (page : BitVec 14)
  | pgctlLock (m : Master) (page : BitVec 14)
  | pgirqTest (m : Master) (page : BitVec 14) (v : Word)
  | lockerrRead (m : Master) (page : BitVec 14)
  | registerWrite (m : Master) (page : BitVec 14) (reg : BitVec 10) (v : Word)
  | fpLinkUp (port : Fin 16)
  | preemptionVerifyEnd (port : Fin 16) (ok : Bool)
  | otpSupplyPresent
  | linkreqHoldEnd (j : Fin 3)
  | replayTimeout (c : ClusterIx)
  | timePulseEnd (n : Fin 2)
  deriving DecidableEq, Repr

end Sys2Proof
end

