-- ==== Sys2Proof/Decode.lean ====
section
/-! DEFINITION. The table's words (the rows give no bits), and the Laile and Reel encodings of R65 to R80 and R166. -/

namespace Sys2Proof

/-- The command a word spells by the bits of opcode_table.json. No row of the table gives bits, so no word spells a
command: a block takes its commands from its queue (DESIGN CHOICE; log entry 1). -/
def decodeTableWord (_nbits _w : Nat) : Option Instr := none

/-! ### Formats (R68, R69) -/

/-- Major opcode in [14:11] of a 16-bit instruction, with three fields below it. -/
def e16 (m : BitVec 4) (a b : BitVec 4) (f : BitVec 3) : Enc := .c16 ((0#1 ++ m ++ a ++ b ++ f : BitVec 16))

/-- Format R. -/
def eR (maj : BitVec 6) (fn : BitVec 4) (f : RF) : Enc :=
  .w32 ((f.rs1 ++ f.rs2 ++ f.rsv ++ 1#1 ++ maj ++ f.rd ++ fn : BitVec 32))

/-- Formats I and M. -/
def eI (maj : BitVec 6) (f : IF) : Enc :=
  .w32 ((f.rs1 ++ f.imm.extractLsb' 4 11 ++ 1#1 ++ maj ++ f.rd ++ f.imm.extractLsb' 0 4 : BitVec 32))

/-- Format U. -/
def eU (maj : BitVec 6) (rd : BitVec 5) (imm : BitVec 20) : Enc :=
  .w32 ((imm.extractLsb' 4 16 ++ 1#1 ++ maj ++ rd ++ imm.extractLsb' 0 4 : BitVec 32))

/-- Format B. -/
def eB (maj : BitVec 6) (cond : BitVec 4) (rsv : BitVec 1) (off : BitVec 20) : Enc :=
  .w32 ((off.extractLsb' 4 16 ++ 1#1 ++ maj ++ cond ++ rsv ++ off.extractLsb' 0 4 : BitVec 32))

/-- Format J. -/
def eJ (maj : BitVec 6) (off : BitVec 25) : Enc :=
  .w32 ((off.extractLsb' 9 16 ++ 1#1 ++ maj ++ off.extractLsb' 0 9 : BitVec 32))

/-- Length of an instruction in bytes (R65). -/
def Enc.len : Enc → Nat
  | .c16 _ => 2
  | .w32 _ => 4

/-- The instruction bits as INFO gives them (R77). -/
def Enc.info : Enc → Word
  | .c16 h => h.zeroExtend 32
  | .w32 i => i

/-! ### Encodings by form (R71 to R74) -/

def encReg (m : BitVec 4) (cf : BitVec 3) (maj : BitVec 6) (fn : BitVec 4) : RegForm → Enc
  | .c rd rs => e16 m rd rs cf
  | .r f => eR maj fn f

def encAddi : AddiForm → Enc
  | .c rd v => e16 3 rd (v.extractLsb' 3 4) (v.extractLsb' 0 3)
  | .i f => eI 0x03 f

def encShift (n : BitVec 2) : ShiftForm → Enc
  | .c rd rs => e16 2 rd rs (0#1 ++ n)
  | .r f => eR 0x01 (2#2 ++ n) f
  | .cs rd sh => e16 5 rd (n ++ sh.extractLsb' 3 2) (sh.extractLsb' 0 3)
  | .i rs1 rd hi sh => eI 0x07 ⟨rs1, rd, (hi ++ n ++ sh : BitVec 15)⟩

def encWord (m : BitVec 4) (maj : BitVec 6) : WordForm → Enc
  | .c rt rb imm => e16 m rt rb imm
  | .m f => eI maj f

def encSub (fn : BitVec 2) (maj : BitVec 6) : SubForm → Enc
  | .c rt rb imm => e16 8 rt rb (fn ++ imm)
  | .m f => eI maj f

def encAmo (fn : BitVec 2) : AmoForm → Enc
  | .c rt rb rsv => e16 9 rt rb (fn ++ rsv)
  | .r f => eR 0x18 (0#2 ++ fn) f

def encBranch : BranchForm → Enc
  | .c cond off => e16 0xA cond (off.extractLsb' 3 4) (off.extractLsb' 0 3)
  | .b cond rsv off => eB 0x20 cond rsv off

def encJump (m : BitVec 4) (maj : BitVec 6) : JumpForm → Enc
  | .c off => e16 m (off.extractLsb' 7 4) (off.extractLsb' 3 4) (off.extractLsb' 0 3)
  | .j off => eJ maj off

def encJr (cf fn : BitVec 4) : JrForm → Enc
  | .c rs rsv => e16 0xD rs cf rsv
  | .r f => eR 0x23 fn f

def encSpr (dir : BitVec 1) (fn : BitVec 4) : SprForm → Enc
  | .c g rsv spec => e16 0xF g (dir ++ rsv ++ spec.extractLsb' 3 2) (spec.extractLsb' 0 3)
  | .r f => eR 0x26 fn f

def encSys (cf fn : BitVec 4) : SysForm → Enc
  | .c r47 rsv => e16 0xD r47 cf rsv
  | .r f => eR 0x25 fn f

def encTrap : TrapForm → Enc
  | .c rsv n => e16 0xE (rsv ++ n.extractLsb' 7 1) (n.extractLsb' 3 4) (n.extractLsb' 0 3)
  | .r hi n rd fn => .w32 ((hi ++ n ++ 1#1 ++ 0x27#6 ++ rd ++ fn : BitVec 32))

def encCx (f : CxF) : Enc :=
  .w32 ((f.hi ++ 1#1 ++ 6#3 ++ f.slot.extractLsb' 2 3 ++ f.rd ++ f.slot.extractLsb' 0 2 ++ f.lo : BitVec 32))

def encNop : NopForm → Enc
  | .sys f => encSys 0 4 f
  | .raw e => e

/-- The encoding of a unit command that stands for an instruction (R65 to R80). -/
def encOf : Instr → Option (UnitIx × Enc)
  | .add p f => some (p, encReg 1 1 0x01 0 f)
  | .sub p f => some (p, encReg 1 2 0x01 1 f)
  | .adc p f => some (p, eR 0x01 2 f)
  | .sbc p f => some (p, eR 0x01 3 f)
  | .and p f => some (p, encReg 1 3 0x01 4 f)
  | .or p f => some (p, encReg 1 4 0x01 5 f)
  | .xor p f => some (p, encReg 1 5 0x01 6 f)
  | .andn p f => some (p, eR 0x01 7 f)
  | .cmp p f => some (p, encReg 1 6 0x01 12 f)
  | .tst p rd rs => some (p, e16 2 rd rs 6)
  | .slt p f => some (p, eR 0x01 13 f)
  | .sltu p f => some (p, eR 0x01 14 f)
  | .neg p f => some (p, encReg 1 7 0x01 15 f)
  | .mov p rd rs => some (p, e16 1 rd rs 0)
  | .addi p f => some (p, encAddi f)
  | .andi p f => some (p, eI 0x04 f)
  | .ori p f => some (p, eI 0x05 f)
  | .xori p f => some (p, eI 0x06 f)
  | .cmpi p f => some (p, eI 0x08 f)
  | .movi p rd v => some (p, e16 4 rd (v.extractLsb' 3 4) (v.extractLsb' 0 3))
  | .lui p rd imm => some (p, eU 0x09 rd imm)
  | .addpc p rd imm => some (p, eU 0x0A rd imm)
  | .shl p f => some (p, encShift 0 f)
  | .shr p f => some (p, encShift 1 f)
  | .sar p f => some (p, encShift 2 f)
  | .ror p f => some (p, encShift 3 f)
  | .mul p f => some (p, encReg 2 4 0x02 0 f)
  | .mulu p f => some (p, encReg 2 5 0x02 1 f)
  | .div p f => some (p, eR 0x02 2 f)
  | .divu p f => some (p, eR 0x02 3 f)
  | .rem p f => some (p, eR 0x02 4 f)
  | .remu p f => some (p, eR 0x02 5 f)
  | .lw p f => some (p, encWord 6 0x10 f)
  | .lh p f => some (p, eI 0x11 f)
  | .lhu p f => some (p, encSub 0 0x12 f)
  | .lb p f => some (p, eI 0x13 f)
  | .lbu p f => some (p, encSub 1 0x14 f)
  | .sw p f => some (p, encWord 7 0x15 f)
  | .sh p f => some (p, encSub 2 0x16 f)
  | .sb p f => some (p, encSub 3 0x17 f)
  | .push p rs rsv => some (p, e16 0xD rs 7 rsv)
  | .pop p rs rsv => some (p, e16 0xD rs 8 rsv)
  | .amoadd p f => some (p, encAmo 0 f)
  | .amoswp p f => some (p, encAmo 1 f)
  | .ldp p f => some (p, eI 0x19 f)
  | .bCond p f => some (p, encBranch f)
  | .j p f => some (p, encJump 0xB 0x21 f)
  | .call p f => some (p, encJump 0xC 0x22 f)
  | .jr p f => some (p, encJr 5 0 f)
  | .callr p f => some (p, encJr 6 1 f)
  | .ret p r47 rsv => some (p, e16 0xD r47 1 rsv)
  | .loop p f => some (p, eI 0x24 f)
  | .mfs p f => some (p, encSpr 0 0 f)
  | .mts p f => some (p, encSpr 1 1 f)
  | .wfe p f => some (p, encSys 3 1 f)
  | .sevC p f => some (p, eR 0x25 7 f)
  | .sevR p f => some (p, eR 0x25 8 f)
  | .waitt p f => some (p, eR 0x25 9 f)
  | .bcopy p f => some (p, eR 0x1A 0 f)
  | .bfill p f => some (p, eR 0x1A 1 f)
  | .bcrc p f => some (p, eR 0x1A 2 f)
  | .fence p f => some (p, encSys 4 0 f)
  | .ckpt p f => some (p, encSys 9 3 f)
  | .trap p f => some (p, encTrap f)
  | .eret p f => some (p, encSys 2 2 f)
  | .tlbinv p f => some (p, eR 0x25 5 f)
  | .tlbinvAll p f => some (p, eR 0x25 6 f)
  | .nop p f => some (p, encNop f)
  | .customerInstruction p f => some (p, encCx f)
  | _ => none

/-! ### Decoding (R71 to R74, R76 steps 2 to 3) -/

/-- The 16-bit instruction of a halfword; an unassigned encoding is a raw NOP form, which R76 refuses as UNDEF. -/
def decode16 (p : UnitIx) (h : Half) : Instr :=
  let a := h.extractLsb' 7 4
  let b := h.extractLsb' 3 4
  let f := h.extractLsb' 0 3
  let s7 : BitVec 7 := b ++ f
  match (h.extractLsb' 11 4).toNat with
  | 0x1 =>
    (match f.toNat with
     | 0 => .mov p a b | 1 => .add p (.c a b) | 2 => .sub p (.c a b) | 3 => .and p (.c a b) | 4 => .or p (.c a b)
     | 5 => .xor p (.c a b) | 6 => .cmp p (.c a b) | _ => .neg p (.c a b))
  | 0x2 =>
    (match f.toNat with
     | 0 => .shl p (.c a b) | 1 => .shr p (.c a b) | 2 => .sar p (.c a b) | 3 => .ror p (.c a b)
     | 4 => .mul p (.c a b) | 5 => .mulu p (.c a b) | 6 => .tst p a b | _ => .nop p (.raw (.c16 h)))
  | 0x3 => .addi p (.c a s7)
  | 0x4 => .movi p a s7
  | 0x5 =>
    (match (b.extractLsb' 2 2).toNat with
     | 0 => .shl p (.cs a (b.extractLsb' 0 2 ++ f)) | 1 => .shr p (.cs a (b.extractLsb' 0 2 ++ f))
     | 2 => .sar p (.cs a (b.extractLsb' 0 2 ++ f)) | _ => .ror p (.cs a (b.extractLsb' 0 2 ++ f)))
  | 0x6 => .lw p (.c a b f)
  | 0x7 => .sw p (.c a b f)
  | 0x8 =>
    (match (f.extractLsb' 1 2).toNat with
     | 0 => .lhu p (.c a b (f.extractLsb' 0 1)) | 1 => .lbu p (.c a b (f.extractLsb' 0 1))
     | 2 => .sh p (.c a b (f.extractLsb' 0 1)) | _ => .sb p (.c a b (f.extractLsb' 0 1)))
  | 0x9 =>
    (match (f.extractLsb' 1 2).toNat with
     | 0 => .amoadd p (.c a b (f.extractLsb' 0 1)) | 1 => .amoswp p (.c a b (f.extractLsb' 0 1))
     | _ => .nop p (.raw (.c16 h)))
  | 0xA => .bCond p (.c a s7)
  | 0xB => .j p (.c (a ++ b ++ f))
  | 0xC => .call p (.c (a ++ b ++ f))
  | 0xD =>
    (match b.toNat with
     | 0 => .nop p (.sys (.c a f)) | 1 => .ret p a f | 2 => .eret p (.c a f) | 3 => .wfe p (.c a f)
     | 4 => .fence p (.c a f) | 5 => .jr p (.c a f) | 6 => .callr p (.c a f) | 7 => .push p a f | 8 => .pop p a f
     | 9 => .ckpt p (.c a f) | _ => .nop p (.raw (.c16 h)))
  | 0xE => .trap p (.c (a.extractLsb' 1 3) (a.extractLsb' 0 1 ++ b ++ f))
  | 0xF =>
    (match (b.extractLsb' 3 1).toNat with
     | 0 => .mfs p (.c a (b.extractLsb' 2 1) (b.extractLsb' 0 2 ++ f))
     | _ => .mts p (.c a (b.extractLsb' 2 1) (b.extractLsb' 0 2 ++ f)))
  | _ => .nop p (.raw (.c16 h))

/-- The 32-bit instruction of an instruction word. -/
def decode32 (p : UnitIx) (i : Word) : Instr :=
  let fn := i.extractLsb' 0 4
  let rd := i.extractLsb' 4 5
  let fR : RF := ⟨i.extractLsb' 27 5, i.extractLsb' 22 5, i.extractLsb' 16 6, rd⟩
  let imm : BitVec 15 := i.extractLsb' 16 11 ++ fn
  let fI : IF := ⟨i.extractLsb' 27 5, rd, imm⟩
  let raw : Instr := .nop p (.raw (.w32 i))
  match (i.extractLsb' 9 6).toNat with
  | 0x01 =>
    (match fn.toNat with
     | 0 => .add p (.r fR) | 1 => .sub p (.r fR) | 2 => .adc p fR | 3 => .sbc p fR | 4 => .and p (.r fR)
     | 5 => .or p (.r fR) | 6 => .xor p (.r fR) | 7 => .andn p fR | 8 => .shl p (.r fR) | 9 => .shr p (.r fR)
     | 10 => .sar p (.r fR) | 11 => .ror p (.r fR) | 12 => .cmp p (.r fR) | 13 => .slt p fR | 14 => .sltu p fR
     | _ => .neg p (.r fR))
  | 0x02 =>
    (match fn.toNat with
     | 0 => .mul p (.r fR) | 1 => .mulu p (.r fR) | 2 => .div p fR | 3 => .divu p fR | 4 => .rem p fR
     | 5 => .remu p fR | _ => raw)
  | 0x03 => .addi p (.i fI)
  | 0x04 => .andi p fI
  | 0x05 => .ori p fI
  | 0x06 => .xori p fI
  | 0x07 =>
    (match (imm.extractLsb' 5 2).toNat with
     | 0 => .shl p (.i fI.rs1 rd (imm.extractLsb' 7 8) (imm.extractLsb' 0 5))
     | 1 => .shr p (.i fI.rs1 rd (imm.extractLsb' 7 8) (imm.extractLsb' 0 5))
     | 2 => .sar p (.i fI.rs1 rd (imm.extractLsb' 7 8) (imm.extractLsb' 0 5))
     | _ => .ror p (.i fI.rs1 rd (imm.extractLsb' 7 8) (imm.extractLsb' 0 5)))
  | 0x08 => .cmpi p fI
  | 0x09 => .lui p rd (i.extractLsb' 16 16 ++ fn)
  | 0x0A => .addpc p rd (i.extractLsb' 16 16 ++ fn)
  | 0x10 => .lw p (.m fI)
  | 0x11 => .lh p fI
  | 0x12 => .lhu p (.m fI)
  | 0x13 => .lb p fI
  | 0x14 => .lbu p (.m fI)
  | 0x15 => .sw p (.m fI)
  | 0x16 => .sh p (.m fI)
  | 0x17 => .sb p (.m fI)
  | 0x18 => (match fn.toNat with | 0 => .amoadd p (.r fR) | 1 => .amoswp p (.r fR) | _ => raw)
  | 0x19 => .ldp p fI
  | 0x1A => (match fn.toNat with | 0 => .bcopy p fR | 1 => .bfill p fR | 2 => .bcrc p fR | _ => raw)
  | 0x20 => .bCond p (.b (i.extractLsb' 5 4) (i.extractLsb' 4 1) (i.extractLsb' 16 16 ++ fn))
  | 0x21 => .j p (.j (i.extractLsb' 16 16 ++ i.extractLsb' 0 9))
  | 0x22 => .call p (.j (i.extractLsb' 16 16 ++ i.extractLsb' 0 9))
  | 0x23 => (match fn.toNat with | 0 => .jr p (.r fR) | 1 => .callr p (.r fR) | _ => raw)
  | 0x24 => .loop p fI
  | 0x25 =>
    (match fn.toNat with
     | 0 => .fence p (.r fR) | 1 => .wfe p (.r fR) | 2 => .eret p (.r fR) | 3 => .ckpt p (.r fR)
     | 4 => .nop p (.sys (.r fR)) | 5 => .tlbinv p fR | 6 => .tlbinvAll p fR | 7 => .sevC p fR | 8 => .sevR p fR
     | 9 => .waitt p fR | _ => raw)
  | 0x26 => (match fn.toNat with | 0 => .mfs p (.r fR) | 1 => .mts p (.r fR) | _ => raw)
  | 0x27 => .trap p (.r (i.extractLsb' 24 8) (i.extractLsb' 16 8) rd fn)
  | 0x30 | 0x31 | 0x32 | 0x33 | 0x34 | 0x35 | 0x36 | 0x37 =>
    .customerInstruction p ⟨i.extractLsb' 9 3 ++ i.extractLsb' 2 2, i.extractLsb' 16 16, rd, i.extractLsb' 0 2⟩
  | _ => raw

/-- The instruction an encoding stands for at unit `p`. -/
def decodeUnit (p : UnitIx) : Enc → Instr
  | .c16 h => decode16 p h
  | .w32 i => decode32 p i

/-! ### Reel instruction words (R166) -/

/-- The word of a Reel instruction with operation `op`. -/
def encRi (op : BitVec 5) (f : RI) : Word := (op ++ f.i ++ f.mode ++ f.d ++ f.s ++ f.pin ++ f.imm : BitVec 32)

/-- The fields of a Reel instruction word below OP. -/
def riOf (w : Word) : RI :=
  ⟨w.extractLsb' 26 1, w.extractLsb' 24 2, w.extractLsb' 21 3, w.extractLsb' 18 3, w.extractLsb' 16 2,
    w.extractLsb' 0 16⟩

/-- The Reel instruction a word stands for on slot `k` of Reel `r`; the words of OP 0 and of the unassigned OPs are NOP
rows. -/
def decodeReel (r : ReelIx) (k : SlotIx) (w : Word) : Instr :=
  match (w.extractLsb' 27 5).toNat with
  | 0x01 => .ldi r k (riOf w) | 0x02 => .ldhi r k (riOf w) | 0x03 => .reelMov r k (riOf w)
  | 0x04 => .alua r k (riOf w) | 0x05 => .alub r k (riOf w) | 0x06 => .sample r k (riOf w)
  | 0x07 => .shin r k (riOf w) | 0x08 => .shout r k (riOf w) | 0x09 => .drive r k (riOf w)
  | 0x0A => .oe r k (riOf w) | 0x0B => .waitpin r k (riOf w) | 0x0C => .waittime r k (riOf w)
  | 0x0D => .waitbit r k (riOf w) | 0x0E => .jmp r k (riOf w) | 0x0F => .djnz r k (riOf w)
  | 0x10 => .reelPush r k (riOf w) | 0x11 => .pull r k (riOf w) | 0x12 => .crc r k (riOf w)
  | 0x13 => .irq r k (riOf w) | 0x14 => .tstamp r k (riOf w) | 0x15 => .setbt r k (riOf w)
  | 0x16 => .hsync r k (riOf w) | 0x17 => .stop r k (riOf w)
  | _ => .reelNop r k w

end Sys2Proof
end

