-- ==== Sys2Proof/Machine/State.lean ====
section
/-! DEFINITION. The state of the block as plain data, its reset value, and the reasons a step can stop. -/

namespace Sys2Proof.Machine

/-- Reasons a step stops with a fault. Each is an event of the surroundings that the spec says never comes; stopping
there is safe: the model goes no further where the spec describes nothing. -/
inductive Fault
  /-- Raised by HOST_RESPONSE and HOST_TIMEOUT for an ID with no outstanding request: the integrator returns exactly one
  response for each accepted request (R405). Safe. -/
  | spuriousHostResponse
  /-- Raised by PCACK while PCREQ is 0: PCACK never comes uninvited (R393). Safe. -/
  | uninvitedPcack
  /-- Raised by RESPONSE_FLIT with no die-window request of its SRC outstanding on that link: an adapter carries flits
  unchanged and the far die answers each request (R37, R413). Safe. -/
  | spuriousResponseFlit
  deriving DecidableEq, Repr

/-- Reasons a command has no meaning. -/
inductive Refusal
  /-- Raised by a dispatch arm whose command has no meaning yet. Safe. -/
  | notModelled (mnemonic : String)
  deriving DecidableEq, Repr

/-- Kinds of memory access of a unit (R94, R97, R98). -/
inductive Acc
  | load | store | amoadd | amoswp | peek | fetch
  deriving DecidableEq, Repr

/-- What completes an instruction once its memory access has its data. -/
inductive After
  | reg (rd : Nat) (signed : Bool)
  | plain
  | push (dsp : Word)
  | pop (rd : Nat) (dsp : Word)
  | bcopyRead (rd rs1 rs2 : Nat)
  | bcopyWrite (rd rs1 rs2 : Nat)
  | bfill (rd rs2 : Nat)
  | bcrc (rd rs1 rs2 : Nat)
  | micro
  | fetch
  deriving DecidableEq, Repr

/-- A translation of a host window address (R306): host physical address and attributes. `tlb` holds V, A and D of a page
entry. -/
structure Tr where
  hpa : Nat
  htype : Nat
  dev : Bool
  u : Bool
  x : Bool
  w : Bool
  r : Bool
  tlb : Option (Bool × Bool × Bool)
  deriving DecidableEq, Repr

/-- One memory access of a unit in progress: its kind, address, size (0 byte, 1 halfword, 2 word), store data or
operand, the instruction bits INFO would hold, the instruction's length and what completes it. -/
structure Job where
  acc : Acc
  va : Word
  size : Nat
  val : Word
  ins : Word
  len : Nat
  mc : Bool
  after : After
  deriving DecidableEq, Repr

/-- A store in the store buffer (R95): unit address, host request fields (R404), and whether it has been issued. -/
structure HStore where
  va : Word
  hpa : Nat
  size : Nat
  data : Word
  htype : Nat
  dev : Bool
  mode : Nat
  deriving DecidableEq, Repr

/-- An operation of the return stack that goes on once the home bank serves it, with the instruction bits INFO would hold: a
call to `tgt`, a RET, a FLUSH with the return stack before it, or that of a customer instruction (R56, R57). -/
inductive RsOp
  | call (ret tgt info : Word)
  | ret (info : Word)
  | flush (info : Word) (len : Nat) (rs : List Word) (spilled : Nat) (rsp : Word)
  | micro
  deriving DecidableEq, Repr

/-- What a unit is doing. `held` is reset; `lock` is a unit that waits for nothing but a takeover or a reset. -/
inductive UStat
  | held
  | run
  | wfe
  | waitt (target : DWord)
  | divide (fn rd : Nat) (a b ins : Word)
  | fence (ckpt : Bool) (len : Nat) (ins : Word)
  | ckpt (len : Nat)
  /-- A walk read of level 0 or 1 is outstanding (R309). -/
  | walk (job : Job) (level : Nat)
  /-- A host read is outstanding for the access. -/
  | hread (job : Job)
  /-- A spill or fill of the return stack waits for the home bank (R56, R289). -/
  | rswait (op : RsOp)
  /-- The access waits for its target, or a host window store for a free entry of the store buffer (R95, R185, R289). -/
  | sbwait (job : Job)
  /-- The access waits for the store buffer with the translation made for it (R95, R308, R317). -/
  | hwait (job : Job) (tr : Tr)
  /-- A die-window access is outstanding (R37). -/
  | die (job : Job) (link : Nat)
  deriving DecidableEq, Repr

/-- The special registers of R43, the return stack entries (newest first) and the spilled count. -/
structure Spr where
  bnk : Half
  dsp : Word
  rsp : Word
  rs : List Word
  spilled : Nat
  mh : Word
  ml : Word
  lc : Word
  ls : Word
  le : Word
  estat : Word
  cause : Word
  info : Word
  epc : Word
  badaddr : Word
  ebase : Word
  deriving DecidableEq, Repr

/-- What a microword that stands still has read at its start (R121): where it transfers to, the value of WSRC and the high
half of T for the microword after it. -/
structure MicroOp where
  tr : Option Nat
  val : Word
  hi : Option Word
  deriving DecidableEq, Repr

/-- The unit's registers before the microword of an outstanding memory operation: a cause of the operation finds that
microword without effect (R125). -/
structure MicroUndo where
  g : Tab Word
  spr : Spr
  prods : List DWord
  deriving DecidableEq, Repr

/-- A flush of the return stack in progress: where the microword goes on, and the return stack before the instruction
(R56, R57). -/
structure MicroFlush where
  tr : Option Nat
  hi : Option Word
  old : Spr
  deriving DecidableEq, Repr

/-- The context of a customer instruction between microwords (R117 to R128). -/
structure Micro where
  upc : Nat
  fmt : Nat
  target : Option Nat
  t : Tab Word
  mdr : Word
  mc : BitVec 8
  stack : List Nat
  used : Nat
  budget : Nat
  rs1 : Word
  rs2 : Word
  ins : Word
  hiT : Option Word
  /-- The memory operation of the current microword has been issued, and the microword acts when it has completed. -/
  op : Option MicroOp
  /-- A memory operation is outstanding while later microwords run (R119, R124). -/
  undo : Option MicroUndo
  /-- The current microword's flush of the return stack is in progress. -/
  fl : Option MicroFlush
  /-- What MDR takes at the end of the current microword: its memory operation has completed. -/
  got : Option Word
  /-- This instruction made the unit's pending Shutter request (R281). -/
  req : Bool
  /-- The last microword had IPT = 1. -/
  ipt : Bool
  /-- Numbers of the microwords before which the products of this instruction are written, oldest first (R91). -/
  mul : List Nat
  deriving DecidableEq, Repr

/-- The first write of a debug box in a fabric cycle: the cycle, and the word that a full box has discarded, with OVR as it was
before (R375). -/
structure BoxW where
  cyc : Nat
  lost : Option (Word × Bool)
  deriving DecidableEq, Repr

/-- Debug and watchdog state of a unit (R353, R354, R372 to R379). -/
structure Dbg where
  /-- A pending DEBUG REQUEST; `byLoupe` says that the Loupe made it (R370). -/
  req : Bool
  byLoupe : Bool
  /-- A pending WATCHPOINT: number and matched address. -/
  wp : Option (Nat × Word)
  /-- ERET left M mode with STEP = 1 and the stepped instruction has not ended (R377). -/
  stepping : Bool
  inbox : Option Word
  outbox : Option Word
  /-- The writes of the current fabric cycle to the inbox and the outbox (R375). -/
  inW : Option BoxW
  outW : Option BoxW
  /-- Unit watchdog: µs remaining, warning given since the last reload, pending warning, µs held in M mode. -/
  uwd : Nat
  warned : Bool
  wdw : Option Nat
  heldUs : Nat
  deriving DecidableEq, Repr

/-- One unlocked TLB entry: page number of the unit address and bits [47:0] of the second-level entry (R312). -/
structure TlbE where
  vpn : BitVec 20
  pte : BitVec 48
  deriving DecidableEq, Repr

/-- A halfword in the fetch queue: its address, its contents as fetched, and the decode-table entry of its slot as read when
it entered the queue, 0 for a halfword that begins no customer instruction (R83, R84, R130). -/
structure HqE where
  a : Word
  w : Half
  cx : Word
  deriving DecidableEq, Repr

/-- A unit (R42 to R64). Tables of general registers have the default 0. -/
structure UnitSt where
  g : Tab Word
  pc : Word
  spr : Spr
  prods : List DWord
  stat : UStat
  evt : Bool
  stbuf : List HStore
  /-- Failed stores not yet reported: address and response code, oldest first (R141). -/
  lates : List (Word × Nat)
  /-- Sources whose page summary the unit last saw as 1 (R144). -/
  irq : Word
  micro : Option Micro
  tlb : Tab TlbE
  rr : Nat
  /-- The TLB's invalidations of the last fabric cycle that had one: the cycle, and the page or every page (R313). -/
  inv : List (Nat × Option Nat)
  /-- The fetch queue, oldest first (R83). -/
  hq : List HqE
  /-- Host window registers of the unit, by offset, that were written in the course of the instruction in progress, with
  the values its translations go on using (R308). -/
  hwOld : Tab Word
  locked : Bool
  /-- The next instruction is the first after an exception entry (R148). -/
  first : Bool
  /-- Sequential execution has passed 0xFFFF_FFFE (R82). -/
  wrap : Bool
  /-- A spare in step 4 of a takeover (R298). -/
  replay : Bool
  dbg : Dbg
  deriving DecidableEq, Repr

/-- An entry of a Reel queue: word, QACC stored beside it (RX only), SECDED syndrome. -/
structure QEnt where
  w : Word
  acc : Word
  synd : BitVec 8
  deriving DecidableEq, Repr

/-- The working settings of a sampler (R159). -/
structure Bt where
  pre : Nat
  period : Nat
  sp : Nat
  sjw : Nat
  tdco : Nat
  deriving DecidableEq, Repr

/-- A waiting or injected instruction in progress: its word, whether it has been evaluated, the Reel cycle of its
first issue, and whether a boundary or a sample has fallen since (R167). -/
structure Held where
  w : Word
  issued : Bool
  cyc : Nat
  bnd : Bool
  smp : Bool
  deriving DecidableEq, Repr

/-- The bit-timing sampler of a channel (R159 to R165, R174). -/
structure Smp where
  on : Bool
  bcyc : Nat
  bt : Bt
  sbit : Bool
  srdy : Bool
  sampled : Bool
  /-- No further edge resynchronises in this bit (R163). -/
  noRs : Bool
  /-- Armed hard sync: 0 none, 1 falling, 2 rising (R162). -/
  arm : Nat
  hsTs : DWord
  /-- Receive stuffer: length of the run, last level. -/
  rxn : Nat
  rxl : Bool
  rxAny : Bool
  /-- Transmit stuffer: length of the run, last level applied. -/
  txn : Nat
  txl : Bool
  txAny : Bool
  /-- Level applied to TXPIN at the boundary that began this bit, and whether it has been checked (R165). -/
  appl : Option Bool
  stuffErr : Bool
  bitErr : Bool
  /-- SETBT: set to become active at the next boundary, or from the sample point (R167, R174). -/
  setB : Option Nat
  setS : Option Nat
  /-- Reel cycle of the sample of the current bit. -/
  s0 : Nat
  /-- Bit checks still to come when TDCO is not 0: Reel cycle and applied level (R165). -/
  chk : List (Nat × Bool)
  deriving DecidableEq, Repr

/-- A channel context (R154). -/
structure Chan where
  pc : Nat
  x : Tab Word
  sr : Word
  bc : Half
  /-- Poisoned registers, by register code (R232). -/
  poison : List Nat
  /-- SECDED syndromes of X0 to X3 and SR, by register code (R229). -/
  synd : Tab Byte
  lbit : Bool
  /-- Slots m of the running channel. -/
  size : Nat
  out : BitVec 4
  oe : BitVec 4
  aout : Tab (Option Bool)
  aoe : Tab (Option Bool)
  held : Option Held
  inj : Option Held
  /-- Edge latches: 2 × pin + kind (0 falling, 1 rising), with the timestamp of the edge (R171). -/
  edges : Tab (Option DWord)
  /-- Last edge of each kind: first visible Reel cycle + 1, and timestamp. -/
  seen : Tab (Nat × DWord)
  /-- Pins to which a level has been applied. -/
  app : BitVec 4
  /-- Reel cycle + 1 of the last boundary that applied armed outputs, and the outputs (2 × pin, + 1 for oe). -/
  bndAt : Nat
  bndPins : List Nat
  /-- Timestamp of the edge that completed the last edge-mode WAITPIN. -/
  edgeTs : DWord
  smp : Smp
  deriving DecidableEq, Repr

/-- What one Reel cycle, `cyc` - 1, has done to the queues of a Reel, by owner slot: a word appended or removed at the TX
queue, one appended or removed at the RX queue (with whether it is retained), whether a page access was taken, and the
queues that a channel reset has emptied: owner slot, the TX queue that a PULL still sees, and whether the RX queue was full
(R185). -/
structure QCyc where
  cyc : Nat
  txIn : Option Nat
  txOut : Option Nat
  rxIn : Option Nat
  rxOut : Option (Nat × Bool)
  page : Bool
  was : List (Nat × List QEnt × Bool)
  deriving DecidableEq, Repr

/-- An access to a register page that waits for a later cycle: master, page, offset, the value of a write, and the outcome
operands of its command (R185, R418). -/
structure PgReq where
  m : Master
  page : Nat
  off : Nat
  w : Option Word
  timeout : Bool
  bad : Option Nat
  deriving DecidableEq, Repr

/-- The accesses to register pages (R418): for each page but a Reel page the fabric cycle + 1 in which it last took one, and
the accesses that wait, oldest first; and the accesses of the host register slave that it has not yet taken (R408). -/
structure PgSt where
  taken : Tab Nat
  wait : List PgReq
  host : List PgReq
  deriving DecidableEq, Repr

/-- A Reel: its channels, program memory with one syndrome for each storage word, the storage word last written as it was
before (Reel cycle + 1, number, words and syndrome, R175), the channel last started by a page write (Reel cycle + 1, slot,
CHCFG before, the value written, R193), queues by owner slot, retained
entries, running checks, the current Reel cycle's queue accesses and waiting page accesses, the Reel cycle + 1 in which
an instruction was last evaluated, and whether it is held in reset. -/
structure ReelSt where
  held : Bool
  ch : Tab Chan
  pm : Tab Word
  pmSynd : Tab (BitVec 8)
  pmOld : Option (Nat × Nat × Word × Word × BitVec 8)
  ran : Option (Nat × Nat × Word × Word)
  tx : Tab (List QEnt)
  rx : Tab (List QEnt)
  ret : Tab (List QEnt)
  qacc : Tab Word
  qc : QCyc
  pq : List PgReq
  evalAt : Nat
  deriving DecidableEq, Repr

/-- The per-reader fields of SHMY (R276). -/
structure ShMy where
  pend : Bool
  granted : Bool
  aband : Bool
  refused : Bool
  relerr : Bool
  req : Nat
  /-- The pending request was made by microcode (R281). -/
  micro : Bool
  deriving DecidableEq, Repr

/-- A request that found a lock free: its fabric cycle, and what its unit and the lock's order and ABAND would be had it
found the lock held (R278). -/
structure Won where
  cyc : Nat
  my : ShMy
  rank : List Nat
  aband : Bool
  evt : Bool
  deriving DecidableEq, Repr

/-- A Shutter lock (R276, R277): `freed` is the fabric cycle + 1 in which it last became free, `won` the request that its
holder's grant answered at once. -/
structure Lock where
  holder : Option Nat
  aband : Bool
  wait : List Nat
  rank : List Nat
  freed : Nat
  won : Option Won
  deriving DecidableEq, Repr

/-- An arbiter (R266 to R272): the masters that have dropped a grant, the last one last; the holder with the cycles left of
its span; the displaced masters in order with the cycles left of theirs; the cycle that follows the home unit's last beat;
the last atomic, by storage word, master and the cycle that follows its write; and the last storage word written through
port A, with its cycle and what it held before. -/
structure Arb where
  served : List Nat
  holder : Option (Nat × Nat)
  disp : List (Nat × Nat)
  home : Nat
  amo : Option (Nat × Nat × Nat)
  wrote : Option (Nat × Nat × BitVec 64)
  deriving DecidableEq, Repr

/-- A DMA channel's burst in progress (R271, R275): its transfers (0: none), those that meet a port-A write, the data
read, oldest first, whether it writes, and die-link requests not yet answered. -/
structure DmaSt where
  n : Nat
  meets : List Nat
  buf : List Nat
  wr : Bool
  fly : Nat
  deriving DecidableEq, Repr

/-- The march-test engine (R284 to R286). -/
structure March where
  busy : Bool
  destr : Bool
  banks : Nat
  bank : Nat
  chunk : Nat
  yields : Nat
  /-- After a yield the chunk is retried 1,024 cycles later: CHUNK_RETRY is due. -/
  retry : Bool
  stop : Bool
  /-- The engine requests port B of the bank under test and has not got it. -/
  want : Bool
  /-- The chunk of the last pass, borrowed while the engine holds port B for it: bank, chunk, and yields before it. -/
  lent : Option (Nat × Nat × Nat)
  /-- The cycle in which the chunk of the last yield is returned. -/
  back : Nat
  deriving DecidableEq, Repr

/-- A cluster: Shutter, Negative, march test, repair, clearing, control store, takeover. -/
structure Clu where
  locks : Tab Lock
  my : Tab ShMy
  /-- Negative slots by 2u + (0 for A, 1 for B), as 256 words (R290). -/
  slots : Tab (List Word)
  /-- SECDED syndromes of the slots' storage words, by 128 × slot + word (R227, R290). -/
  slotSynd : Tab Byte
  mt : March
  /-- Mapped rows: (bank, row, spare row); used spare rows beside them in BKSTAT (R287). -/
  rows : List (Nat × Nat × Nat)
  /-- Banks still being cleared (R289, R369). -/
  clearing : List Nat
  /-- The WCS copy of each unit by 1024 u + word, its syndromes by 2 × that + half, and its decode table by 32 u + slot
  (R115, R116). -/
  wcs : Tab (BitVec 128)
  wcsSynd : Tab (BitVec 8)
  dt : Tab Word
  /-- Writes of the control store that wait for a customer instruction to end (R130). -/
  csq : List PgReq
  csLatch : BitVec 128
  /-- Logical unit replaced by the spare, and Reel replaced by the spare Reel. -/
  urepl : Option Nat
  rrepl : Option Nat
  /-- Takeover triggers not yet acted on: (logical unit, or 8 for the spare; UTRIG; T), and (Reel; RTRIG; T). -/
  trig : List (Nat × Nat × Nat)
  rtrig : List (Nat × Nat × Nat)
  /-- Returned entries still to be popped in replay by 16 × Reel + owner slot, and T at the trigger (R299). -/
  toPop : Tab Nat
  trigT : Nat
  /-- Bursts in progress of the DMA channels. -/
  dma : Tab DmaSt
  /-- The cluster port's receive side, and its transmit side, requests port B of a bank (R269). -/
  cpRx : Bool
  cpTx : Bool
  /-- Requests for port B that the cluster port still makes for the frame it moves: arbiter key and beats (R270). -/
  cpMore : List (Nat × Nat)
  /-- Events on their way to units of the cluster (R103). -/
  sev : List Nat
  deriving DecidableEq, Repr

/-- A time-driven list: the pending change time and whether the current cycle is stretched (R212). -/
structure Sched where
  pend : Option Nat
  stretch : Bool
  row : Option Nat
  deriving DecidableEq, Repr

/-- A frame held in the frame path, with its descriptor (R201): the bytes with the carried FCS as the last four, and
`ccw`, word 7 of a frame bound to a cluster port (R238). -/
structure Fr where
  bytes : List Byte
  ccw : Word
  src : Nat
  tc : Nat
  tsreq : Bool
  yellow : Bool
  ptp : Bool
  ctok : Bool
  sched : Bool
  svalid : Bool
  stream : Nat
  pcp : Nat
  vid : Nat
  dest : Word
  ts : DWord
  seq : Word
  /-- Number of the frame's first cell. -/
  addr : Nat
  /-- SECDED syndromes of the frame's words in the buffer, by byte position / 8 (R229). -/
  synd : Tab Byte
  /-- Cells the frame occupies, and cells charged at each destination that admitted it (R215). -/
  cells : Nat
  charge : Tab Nat
  /-- Destinations that have not yet finished. -/
  dests : List Nat
  deriving DecidableEq, Repr

/-- A transmission on a frame port: frame, class, start of its current fragment in units of 2^-16 / 5 ns, egress timestamp,
bytes of the frame sent in earlier fragments, cut through; of a stomped one, the bytes it ends with, which are those
sent and their inverted FCS (R216 to R223); and, of a preemptable one, its number modulo 4 and the fragments sent before
(R219). -/
structure Tx where
  id : Nat
  cls : Nat
  start : Nat
  ts : Nat
  done : Nat
  cut : Bool
  out : Option (List Byte)
  smd : Option (Nat × Nat)
  deriving DecidableEq, Repr

/-- The egress of a frame port. -/
structure Port where
  tx : Option Tx
  /-- A preempted preemptable transmission (R219). -/
  held : Option Tx
  /-- A frame that is cut through once the transmission in progress and its inter-frame gap are over (R220). -/
  nextTx : Option Tx
  /-- End of the inter-frame gap of the last transmission, in units of 2^-16 / 5 ns (R199). -/
  freeAt : Nat
  /-- The bytes of the transmission or fragment that ended last, preamble and SFD before them. -/
  sent : List Byte
  /-- That transmission was stomped: it ended with an error character (R411). -/
  stomped : Bool
  /-- Number modulo 4 of the next preemptable frame (R219). -/
  num : Nat
  /-- Egress timestamps (R223). -/
  fifo : List (Half × DWord)
  lost : Bool
  tsLatch : DWord
  /-- Shaper credit of each class in steps of 1/1,024 bit, the millionths of a step beside it, and T of the last update
  (R217). -/
  credit : Tab Int
  creditRem : Tab Nat
  creditT : Nat
  deriving DecidableEq, Repr

/-- The frame path: frames by number, queues by 8p + t, meter buckets, lists, last log times. -/
structure Fp where
  frames : Tab (Option Fr)
  next : Nat
  queues : Tab (List Nat)
  ports : Tab Port
  /-- Token buckets of meter j at 2j (committed) and 2j + 1 (excess) in 10^-6 bit, and T of their last update at j. -/
  bucket : Tab Nat
  bucketT : Tab Nat
  lists : Tab Sched
  /-- Last FIXER_ABORT record for 32 × REASON + PORT, as T + 1 (0: none) (R242). -/
  aborts : Tab Nat
  deriving DecidableEq, Repr

/-- The time base (R243 to R249) and the clocks the model counts. -/
structure Tim where
  /-- Die time base in units of 2^-24 ns. -/
  base : Nat
  /-- Fabric cycles since the last TBCLK edge, 0 to 7, and the sum of their effective increments: eight times what a
  copy has advanced since that edge, in units of 2^-24 ns (R247). -/
  phase : Nat
  adv : Nat
  /-- T of the fabric cycles before the current one, newest first: the last five (R158). -/
  hist : List Nat
  /-- Slew not yet applied, in half ns. -/
  slew : Int
  stepPend : Bool
  slewAfter : Bool
  /-- The TBCLK edge that ends the current fabric cycle has already come with TIME_STEP or SLEW_END. -/
  edge : Bool
  /-- A follower's step to its master, due at the next TBCLK edge: the offset in ns (R248). -/
  jump : Option Int
  /-- The target of the armed snap (R260). -/
  snapT : Nat
  /-- Latches of TBNOWH and TBNOWF by master: T in units of 2^-16 ns. -/
  latch : Tab Nat
  /-- Fabric cycles since reset, TBCLK edges in the current µs, slow-clock accumulator. -/
  cyc : Nat
  us : Nat
  slow : Nat
  /-- T saved when the domain entered SLEEP, and slow ticks since (R249). -/
  saved : Option (Nat × Nat)
  tpHi : Tab Word
  /-- Time pulse j: captures not yet read; T + 1 of the end of the pulse in progress (0: none). -/
  tpUnread : List Nat
  tpOn : Tab Nat
  /-- Time pulse outputs whose TPOUT had already passed when they were enabled. -/
  tpLate : List Nat
  free : Bool
  deriving DecidableEq, Repr

/-- Kinds of request on the host master port. -/
inductive HKind
  | store (va : Word)
  | walk
  | read
  | flush
  deriving DecidableEq, Repr

/-- A request on the host master port that has no response yet (R404 to R406). -/
structure HReq where
  id : Nat
  wr : Bool
  addr : Nat
  size : Nat
  kind : HKind
  timedOut : Bool
  /-- The issuer no longer waits for it (a reset or a takeover). -/
  dead : Bool
  deriving DecidableEq, Repr

/-- A request presented on the host master port (R404). -/
structure HRq where
  wr : Bool
  addr : BitVec 48
  size : BitVec 2
  id : BitVec 8
  htype : BitVec 4
  dev : Bool
  priv : BitVec 2
  data : BitVec 256
  be : BitVec 32
  deriving DecidableEq, Repr

/-- A die-link port (R34 to R39, R413, R414). -/
structure Link where
  up : Bool
  /-- DL_LINKREQ is held at 0 after a bad flit. -/
  hold : Bool
  /-- STRAP_PKG[2] and die number of the last hello received. -/
  hello : Option (Bool × Nat)
  /-- Requests sent and not answered: requester and KIND, oldest first. Units count from 0, and channel n of the DMA engine
  of cluster c is 144 + 8c + n. -/
  out : List (Nat × Nat)
  /-- Flits presented and not yet taken: KIND and fields; DL_TXVALID is 1 while there is one (R413). -/
  tx : List (Nat × Flit)
  /-- Fabric cycle of the last hello sent, and the fabric cycles of the last hello exchange (R414). -/
  upAt : Nat
  trip : Nat
  /-- Requests from the far die that wait for a segment still being cleared: KIND and fields, oldest first (R289). -/
  wait : List (Nat × Flit)
  deriving DecidableEq, Repr

/-- One step of a power transition (R389): domain, target state. -/
structure PwStep where
  dom : Nat
  tgt : Nat
  deriving DecidableEq, Repr

/-- Power, clocks and reset (R382 to R399). -/
structure Pw where
  /-- State code of each domain (R386). -/
  dom : Tab Nat
  steps : List PwStep
  /-- The transition was started by GO; a wake's regions are in `wake`, and `wait` holds regions whose wake waits for
  the transition in progress. -/
  go : Bool
  busy : Bool
  wake : List Nat
  wait : List Nat
  /-- Regions of the wake in progress, and slow-clock tick + 1 in which it began, 0 once a step has been made (R357). -/
  asked : List Nat
  wakeT : Nat
  pcreq : Bool
  acked : Bool
  /-- CKACK inputs, bits in the order FAB, CORE, FP, HOST, BF, TB, DL. -/
  ckack : BitVec 7
  coreOk : Bool
  /-- Resets that wait for a transition to end (R397). -/
  rst : List (Nat × Nat)
  /-- Scopes held in reset for 64 fabric cycles (R396). -/
  held : List Scope
  deriving DecidableEq, Repr

/-- A key of the key store (R352). -/
structure Key where
  bytes : List Byte
  loupe : Bool
  mac : Bool
  deriving DecidableEq, Repr

/-- One log record before its SEQ and CRC are written (R348), with the fabric cycle in which its event arose. -/
structure LogE where
  code : Nat
  cyc : Nat
  seq : Word
  t : DWord
  coord : Word
  d0 : Word
  d1 : Word
  deriving DecidableEq, Repr

/-- Programming that a command in progress has still to do: OTP bits or flash bytes in order, each with the byte that it
takes (1 for a bit), and how many of them come before the one that does not read back (R332, R360, R402). -/
structure Prog where
  left : List (Nat × Byte)
  bad : Option Nat
  deriving DecidableEq, Repr

/-- The Safelight (R340 to R360), with OTP, boot flash and key store. -/
structure Saf where
  /-- The Safelight is in its power-on reset, and its regulator output is in range (R341). -/
  por : Bool
  pgood : Bool
  /-- The management unit and its RAM of 64 KiB (R343). -/
  mg : UnitSt
  mgRam : Tab Byte
  straps : Straps
  otp : Nat
  vpp : Bool
  tmode : BitVec 3
  flash : Tab Byte
  keys : Tab (Option Key)
  intake : List LogE
  log : Tab (List Word)
  seq : Word
  /-- Records written since the Safelight's power-on reset, and records flushed or lost before flushing. -/
  written : Nat
  flushed : Nat
  safe : Bool
  alive : Bool
  /-- Last samples: consecutive samples out of (or in) range per voltage monitor; sensors above TWARN and TCRIT. -/
  vrun : Tab Nat
  warn : List Nat
  crit : List Nat
  swd : Nat
  kick : Bool
  swdWarned : Bool
  /-- The crystal has been checked since the Safelight's power-on reset (R342). -/
  xtalDone : Bool
  /-- Number, since the Safelight's power-on reset, of the record whose flush is in progress (R351). -/
  flight : Option Nat
  /-- Slow-clock tick + 1 and record number of the last WAKE record written (R357). -/
  wakeRec : Nat × Nat
  /-- Commands in progress: DVCMD, RCCMD, UPCMD, KSCMD. -/
  dvBusy : Bool
  rcBusy : Bool
  upBusy : Bool
  ksBusy : Bool
  /-- What the command of DVCMD, RCCMD and UPCMD has still to program, and whether the update command is a FINISH. -/
  dv : Prog
  rc : Prog
  up : Prog
  upFin : Bool
  /-- Stores of RCDATA that wait for a segment still being cleared: staging offset and word, oldest first (R289, R338). -/
  rcWait : List (Nat × Word)
  /-- Consecutive samples in which a wake pad was active, up to 17 (R356). -/
  wk : Tab Nat
  /-- Repairs not yet recorded in OTP (24-bit entries). -/
  repairs : List Nat
  deriving DecidableEq, Repr

/-- The Developer (R319 to R339): state, retained fields, the open update and the boot entry address. -/
structure Dev where
  /-- A power-on or warm reset has been released and the Developer's sequence has not yet run. -/
  due : Bool
  pon : Bool
  /-- The repair map has been loaded since the last power-on reset (R288). -/
  mapped : Bool
  entry : Word
  trial : Bool
  upOpen : Bool
  upTgt : Nat
  upSeq : Word
  /-- Header VERSION of the accepted image. -/
  version : Nat
  /-- The cycle in which BF_RESET_N rises again (R402). -/
  bfT : Nat
  deriving DecidableEq, Repr

/-- The Loupe (R361 to R376). -/
structure Lou where
  low : Bool
  frame : Option (List Bool)
  nonce : BitVec 384
  /-- STATUS and data of the last response, and its bits in the order of its slots (R365). -/
  status : Nat
  rdata : Word
  resp : List Bool
  /-- Fabric cycle + 1 of the last failed response (0: none), for the hold-off of R367; fabric cycle of the last change
  of state or frame answered OK. -/
  failT : Nat
  lastT : Nat
  /-- The Darkslide is clearing banks (R369). -/
  darkBanks : Bool
  deriving DecidableEq, Repr

/-- The block. Tables list only what differs from a default: memory and syndromes 0, registers their reset values,
units, Reels, clusters and links their reset states. -/
structure State where
  /-- Commands that wait, first in, first out. -/
  pending : List Instr
  /-- Banks at c × 0x8_0000 + offset, region memories at 0x80_0000 + r × 0x20_0000 + offset. -/
  mem : Tab Byte
  /-- SECDED syndrome of each storage word of those memories, by address / 8 (R228). -/
  synd : Tab Byte
  /-- Registers by page × 1024 + offset / 4. -/
  regs : Tab Word
  /-- 48-bit counters by the key of their low register, and counters with no register by keys from 2^26. -/
  cnt : Tab Nat
  /-- Contact Sheet shadows by the same keys: value and GEN and STALE (R259). -/
  shadow : Tab (Nat × Nat × Bool)
  units : Tab UnitSt
  reels : Tab ReelSt
  clus : Tab Clu
  /-- Arbiters by key: bank ports A and B at 2 × (8c + b), + 1; region memory ports at 256 + r; uplinks at 260 + r (R265). -/
  arb : Tab Arb
  /-- The register pages' accesses (R418). -/
  pgs : PgSt
  fp : Fp
  tbl : Tab Word
  tim : Tim
  hreqs : List HReq
  /-- Requests presented on the host master port and not yet taken: HM_RQ_VALID is 1 while there is one (R404, R405). -/
  hrq : List HRq
  links : Tab Link
  pw : Pw
  saf : Saf
  dev : Dev
  lou : Lou
  /-- Levels of the 512 Reel pads as the Reels see them: the pads at 1. None is listed at reset: until a PAD_EDGE tells of
  its level, a pad reads 0 (DESIGN CHOICE; log entry 8). -/
  pads : Tab Bool
  /-- Region rotation counters (R191). -/
  rot : Tab Nat
  /-- Region memory segment groups still being cleared: 4r + group (R289). -/
  rclear : List Nat
  /-- Host interrupt lines (R409). -/
  irqs : BitVec 64
  /-- Data of the last read answered on a register page, and the response code of the last access answered: a write of the
  host or a read; a unit's read carries none, which is 0 (R408, R420). -/
  rdata : Word
  rresp : Nat
  /-- Free values drawn so far (the model's own field; log entry 13). -/
  draws : Nat
  deriving DecidableEq, Repr

/-- Reset values of the special registers (R43, R45, R63), with EBASE as given. -/
def Spr.reset (ebase : Word) : Spr :=
  { bnk := 0, dsp := 0, rsp := 0, rs := [], spilled := 0, mh := 0, ml := 0, lc := 0, ls := 0, le := 0,
    estat := 0x00044000, cause := 0, info := 0, epc := 0, badaddr := 0, ebase := ebase }

/-- Debug state after reset. -/
def Dbg.reset : Dbg :=
  { req := false, byLoupe := false, wp := none, stepping := false, inbox := none, outbox := none, inW := none, outW := none, uwd := 0,
    warned := false, wdw := none, heldUs := 0 }

/-- A unit in its reset state, held (R63). -/
def UnitSt.reset (ebase : Word) : UnitSt :=
  { g := [], pc := ebase, spr := Spr.reset ebase, prods := [], stat := .held, evt := false, stbuf := [], lates := [],
    irq := 0, micro := none, tlb := [], rr := 0, inv := [], hq := [], hwOld := [], locked := false, first := false, wrap := false,
    replay := false, dbg := Dbg.reset }

/-- A stopped sampler (R154). -/
def Smp.reset : Smp :=
  { on := false, bcyc := 0, bt := ⟨0, 0, 0, 0, 0⟩, sbit := false, srdy := false, sampled := false, noRs := false,
    arm := 0, hsTs := 0, rxn := 0, rxl := false, rxAny := false, txn := 0, txl := false, txAny := false, appl := none,
    stuffErr := false, bitErr := false, setB := none, setS := none, s0 := 0, chk := [] }

/-- A channel context after reset (R154). -/
def Chan.reset : Chan :=
  { pc := 0, x := [], sr := 0, bc := 0, poison := [], synd := [], lbit := false, size := 1, out := 0, oe := 0, aout := [],
    aoe := [], held := none, inj := none, edges := [], seen := [], app := 0, bndAt := 0, bndPins := [],
    edgeTs := 0, smp := Smp.reset }

/-- No queue access in any Reel cycle. -/
def QCyc.none : QCyc := { cyc := 0, txIn := .none, txOut := .none, rxIn := .none, rxOut := .none, page := false, was := [] }

/-- A Reel in its reset state, held, with an empty program memory. -/
def ReelSt.reset : ReelSt :=
  { held := true, ch := [], pm := [], pmSynd := [], pmOld := .none, ran := .none, tx := [], rx := [], ret := [], qacc := [], qc := QCyc.none,
    pq := [], evalAt := 0 }

/-- A free Shutter lock (R279). -/
def Lock.reset : Lock :=
  { holder := none, aband := false, wait := [], rank := [0, 1, 2, 3, 4, 5, 6, 7], freed := 0, won := none }

/-- SHMY after reset. -/
def ShMy.reset : ShMy :=
  { pend := false, granted := false, aband := false, refused := false, relerr := false, req := 0, micro := false }

/-- An idle march-test engine. -/
def March.reset : March :=
  { busy := false, destr := false, banks := 0, bank := 0, chunk := 0, yields := 0, retry := false, stop := false,
    want := false, lent := none, back := 0 }

/-- An arbiter after reset (R269). -/
def Arb.reset : Arb := { served := [], holder := none, disp := [], home := 0, amo := none, wrote := none }

/-- No access to a page. -/
def PgSt.reset : PgSt := { taken := [], wait := [], host := [] }

/-- A DMA channel with no burst in progress. -/
def DmaSt.reset : DmaSt := { n := 0, meets := [], buf := [], wr := false, fly := 0 }

/-- A cluster after reset. -/
def Clu.reset : Clu :=
  { locks := [], my := [], slots := [], slotSynd := [], mt := March.reset, rows := [], clearing := [], wcs := [],
    wcsSynd := [], dt := [], csq := [], csLatch := 0, urepl := none, rrepl := none, trig := [], rtrig := [], toPop := [],
    trigT := 0, dma := [], cpRx := false, cpTx := false, cpMore := [], sev := [] }

/-- A list with no change pending. -/
def Sched.reset : Sched := { pend := none, stretch := false, row := none }

/-- An idle egress. -/
def Port.reset : Port :=
  { tx := none, held := none, nextTx := none, freeAt := 0, sent := [], stomped := false, num := 0, fifo := [], lost := false, tsLatch := 0, credit := [],
    creditRem := [], creditT := 0 }

/-- An empty frame path. -/
def Fp.reset : Fp :=
  { frames := [], next := 0, queues := [], ports := [], bucket := [], bucketT := [], lists := [], aborts := [] }

/-- The time base after a power-on reset (R243). -/
def Tim.reset : Tim :=
  { base := 0, phase := 0, adv := 0, hist := [], slew := 0, stepPend := false, slewAfter := false, edge := false, jump := none,
    snapT := 0, latch := [], cyc := 0, us := 0, slow := 0,
    saved := none, tpHi := [], tpUnread := [], tpOn := [], tpLate := [], free := false }

/-- A die-link port after reset. -/
def Link.reset : Link := { up := false, hold := false, hello := none, out := [], tx := [], upAt := 0, trip := 0, wait := [] }

/-- The power state in which step 2 of R329 leaves the die: every domain in RUN but the idle spares in NAP and the die-link
ports (DESIGN CHOICE; log entry 8). -/
def Pw.reset : Pw :=
  { dom := [], steps := [], go := false, busy := false, wake := [], wait := [], asked := [], wakeT := 0, pcreq := false, acked := false,
    ckack := 0x3f, coreOk := true, rst := [], held := [] }

/-- Nothing to program. -/
def Prog.empty : Prog := { left := [], bad := none }

/-- The Safelight after its power-on reset, with straps all 0 and erased OTP and flash (DESIGN CHOICE; log entry 9). -/
def Saf.reset : Saf :=
  { por := false, pgood := true, mg := UnitSt.reset 0, mgRam := [], straps := 0, otp := 0, vpp := true, tmode := 0, flash := [], keys := [], intake := [], log := [],
    seq := 0, written := 0, flushed := 0, safe := false, alive := false, vrun := [], warn := [], crit := [],
    swd := 0, kick := false, swdWarned := false, xtalDone := false, flight := none, wakeRec := (0, 0), dvBusy := false, rcBusy := false,
    upBusy := false, ksBusy := false, dv := Prog.empty, rc := Prog.empty, up := Prog.empty, upFin := false, rcWait := [],
    wk := [], repairs := [] }

/-- The Developer after a power-on reset: its sequence is due. DESIGN CHOICE; log entry 10. -/
def Dev.reset : Dev :=
  { due := true, pon := true, mapped := false, entry := 0, trial := false, upOpen := false, upTgt := 0, upSeq := 0, version := 0, bfT := 0 }

/-- A closed Loupe. -/
def Lou.reset : Lou :=
  { low := false, frame := none, nonce := 0, status := 0, rdata := 0, resp := [], failT := 0, lastT := 0, darkBanks := false }

/-- Every domain but the management unit without power, as a power-on reset leaves them until step 2 of R329. -/
def allDown : Tab Nat := (List.range 265).map fun d => (d, 4)

/-- The block right after the release of the Safelight's power-on reset, with its SL_POR event in the log intake (R341,
R349), before the Developer's sequence runs. DEDUCED; log entry 11. -/
def State.reset : State :=
  { pending := [], mem := [], synd := [], regs := [], cnt := [], shadow := [], units := [], reels := [], clus := [], arb := [],
    pgs := PgSt.reset, fp := Fp.reset, tbl := [], tim := Tim.reset, hreqs := [], hrq := [], links := [],
    pw := { Pw.reset with dom := allDown, ckack := 0 },
    saf := { Saf.reset with intake := [{ code := 0x01, cyc := 0, seq := 0, t := 0, coord := 0, d0 := 0, d1 := 0 }], seq := 1 },
    dev := Dev.reset, lou := Lou.reset, pads := [], rot := [], rclear := [], irqs := 0, rdata := 0,
    rresp := 0, draws := 0 }

end Sys2Proof.Machine
end

