-- ==== Sys2Proof/Machine/Regs.lean ====
section
/-! DEFINITION. The register pages: page map (R424, R425), register layouts and reset values, generic access by the
access codes of R8, page header (R419), lock (R422) and soft reset (R421). -/

namespace Sys2Proof.Machine

/-- Page types (R424). -/
inductive PK
  | ident | safe | dev | loupe | time | sheet | power | clocks | host | recov | fport | parser | classifier | filters
  | gates | meters | fixer | queues | shapers | sched | egts | region | common | shutter | banks | dma | neg | march
  | xbar | unit | reel
  deriving DecidableEq, Repr

/-- Type and instance number of an assigned page number (R424). -/
def kindOf (p : Nat) : Option (PK × Nat) :=
  if p < 0x00A then
    (match p with
     | 0 => some (.ident, 0) | 1 => some (.safe, 0) | 2 => some (.dev, 0) | 3 => some (.loupe, 0)
     | 4 => some (.time, 0) | 5 => some (.sheet, 0) | 6 => some (.power, 0) | 7 => some (.clocks, 0)
     | 8 => some (.host, 0) | _ => some (.recov, 0))
  else if p < 0x010 then none
  else if p < 0x020 then some (.fport, p - 0x010)
  else if p < 0x02A then
    (match p with
     | 0x20 => some (.parser, 0) | 0x21 => some (.classifier, 0) | 0x22 => some (.filters, 0)
     | 0x23 => some (.gates, 0) | 0x24 => some (.meters, 0) | 0x25 => some (.fixer, 0) | 0x26 => some (.queues, 0)
     | 0x27 => some (.shapers, 0) | 0x28 => some (.sched, 0) | _ => some (.egts, 0))
  else if p < 0x040 then none
  else if p < 0x044 then some (.region, p - 0x040)
  else if p < 0x100 then none
  else if p < 0x200 then
    (match (p - 0x100) % 16 with
     | 0 => some (.common, (p - 0x100) / 16) | 1 => some (.shutter, (p - 0x100) / 16)
     | 2 => some (.banks, (p - 0x100) / 16) | 3 => some (.dma, (p - 0x100) / 16)
     | 4 => some (.neg, (p - 0x100) / 16) | 5 => some (.march, (p - 0x100) / 16)
     | 6 => some (.xbar, (p - 0x100) / 16) | _ => none)
  else if p < 0x290 then some (.unit, p - 0x200)
  else if p < 0x300 then none
  else if p < 0x350 then some (.reel, p - 0x300)
  else none

/-- Page numbers of the parts. -/
def pgUnit (g : Nat) : Nat := 0x200 + g
def pgReel (r : Nat) : Nat := 0x300 + r
def pgCommon (c : Nat) : Nat := 0x100 + 16 * c
def pgShutter (c : Nat) : Nat := 0x101 + 16 * c
def pgBanks (c : Nat) : Nat := 0x102 + 16 * c
def pgDma (c : Nat) : Nat := 0x103 + 16 * c
def pgNeg (c : Nat) : Nat := 0x104 + 16 * c
def pgMarch (c : Nat) : Nat := 0x105 + 16 * c
def pgXbar (c : Nat) : Nat := 0x106 + 16 * c
def pgRegion (r : Nat) : Nat := 0x040 + r
def pgPort (i : Nat) : Nat := 0x010 + i

/-- A register, or `n` registers `stride` bytes apart, by access code (R8): `rw` bits kept as written, `cmd` RW bits
that read 0, `w1c`, `rc`, the reset value, and `free` for a register that stays writable while locked (R422). -/
structure Row where
  off : Nat
  n : Nat
  stride : Nat
  rw : Word
  cmd : Word
  w1c : Word
  rc : Word
  reset : Word
  free : Bool
  deriving DecidableEq, Repr

/-- An RW register. -/
def rRw (off n stride : Nat) (rw reset : Word) (free : Bool) : Row := ⟨off, n, stride, rw, 0, 0, 0, reset, free⟩
/-- A register with W1C and RC bits only. -/
def rCl (off n stride : Nat) (w1c rc : Word) : Row := ⟨off, n, stride, 0, 0, w1c, rc, 0, false⟩
/-- A register with RO bits only and a reset value that is not 0. -/
def rRo (off n stride : Nat) (reset : Word) : Row := ⟨off, n, stride, 0, 0, 0, 0, reset, false⟩

/-- TIDX, TCMD and TDATA of a table page (R205). -/
def tableRows : List Row :=
  [rRw 0x040 1 4 0xFFFF 0 false, ⟨0x044, 1, 4, 0, 3, 0x80000000, 0, 0, false⟩, rRw 0x080 32 4 0xFFFFFFFF 0 false]

/-- The body registers of each page type that hold RW, W1C or RC fields or a reset value other than 0. -/
def rowsOf : PK → List Row
  | .ident => [rRw 0x054 1 4 0xFFFFFFFF 0 false]
  | .safe =>
    [rCl 0x040 1 4 0 0xFFFF, rRw 0x150 1 4 0xFFFFFFFF 0x025801F4 false, rRw 0x154 1 4 1 0 false,
     rRw 0x180 8 8 0xCFFF0FFF 0x0FFF0000 false, rCl 0x1C0 1 4 0xFFFFFFFF 0, rCl 0x1C4 1 4 0x3FF 0,
     rRw 0x240 1 4 0x8000000F 0 false, rRw 0x244 1 4 0xFFFFFFE0 0 false, rRw 0x248 1 4 0xFFFF 0 false,
     rRw 0x250 1 4 0xFFFF 0 true, rCl 0x254 1 4 0 0xFFFF0000, rRw 0x25C 1 4 0x1FF 0 true,
     rRw 0x280 1 4 0xA0FFFFFF 0x00008000 false, rRw 0x284 1 4 0x00FFFFFF 0 false,
     ⟨0x28C, 1, 4, 0, 0xFFFFFFFF, 0, 0, 0, true⟩, rCl 0x290 1 4 0 0xFFFF,
     ⟨0x300, 12, 4, 0, 0xFFFFFFFF, 0, 0, 0, true⟩, rRw 0x340 1 4 0x00030F07 0 true, rRw 0x344 1 4 0xFFFFFFFF 0 true,
     rRw 0x348 1 4 0x1FFF 0 true, rRw 0x400 16 4 0xEF00000F 0 false, rRw 0x444 1 4 0x8FFFFFFF 0 false,
     rCl 0x448 1 4 0x3FFFF 0, rRw 0x500 1 4 7 0 true, rRw 0x504 1 4 0x3FFFFFFF 0 true, rRw 0x508 1 4 0xFFFFFFFF 0 true,
     rRw 0x600 64 4 0xFFFFFFFF 0 true]
  | .dev => [rRo 0x040 1 4 0x06000000, rRw 0x060 1 4 0xFF 0 true, rRw 0x064 1 4 0xFFFFFFFF 0 true]
  | .loupe =>
    [⟨0x040, 1, 4, 0xF00, 0xF, 0, 0x00FF0000, 0, true⟩, rRw 0x0C0 12 4 0xFFFFFFFF 0 true,
     ⟨0x100, 1, 4, 0xFF, 0, 0x20000000, 0, 0, true⟩, rRw 0x104 1 4 0xFF 0 true, rRw 0x10C 1 4 0xFFFFFFFF 0 true,
     rCl 0x114 1 4 0 0x00FFFFFF]
  | .time =>
    [rRw 0x044 1 4 0xFFFFFFFF 0x08000000 true, rRw 0x048 2 4 0xFFFFFFFF 0 true, rRw 0x050 1 4 0xFFFF 0 true,
     rRw 0x054 1 4 0xFFFFFFFF 0 true, rCl 0x06C 1 4 0x1E 0, ⟨0x080, 2, 32, 0xE0000000, 0, 0x18000000, 0, 0, false⟩,
     rRw 0x084 2 32 0xFFFFFFFF 0 false, rRw 0x088 2 32 0x00FFFFFF 8 false, rRw 0x08C 2 32 0xFFFFFFFF 0 false,
     rRw 0x090 2 32 0xFFFFFFFF 0 false]
  | .sheet =>
    [rRw 0x040 2 4 0xFFFFFFFF 0 true, ⟨0x048, 1, 4, 0xA0000000, 0, 0x40000000, 0, 0, true⟩,
     rRw 0x058 1 4 0x3FFF0FFC 0 true]
  | .power =>
    [rRw 0x040 1 4 0x1FF 0 false, ⟨0x044, 1, 4, 7, 0, 0x40000000, 0, 0, false⟩,
     ⟨0x060, 1, 4, 0x71FF, 0xFFFF0000, 0, 0, 0, false⟩]
  | .clocks => [rRw 0x040 1 4 0x3333 0 false]
  | .host =>
    [rRw 0x100 16 16 0xFFFFF003 0 false, rRw 0x104 16 16 0xFFFF 0 false, rRw 0x108 16 16 0xFFFFF000 0 false,
     rRw 0x10C 16 16 0xFFFF 0 false, rRw 0x300 64 4 0x80003FFF 0 false]
  | .recov =>
    [rRw 0x040 1 4 0x007FFFFC 0 true, rRw 0x044 1 4 0xFFFFFFFF 0 true, rRw 0x048 1 4 0xFF 0 true,
     rRw 0x04C 1 4 0xFFFFFFFF 0 true]
  | .fport =>
    [rRw 0x040 1 4 0xFFFF3FFF 0x40FF05F2 false, rCl 0x044 1 4 0x40000000 0, rRw 0x048 2 4 0xFFFF 0 false,
     rRw 0x050 1 4 0x7FFF 1 false]
  | .parser => [rRw 0x040 1 4 0x8000071F 0x00000710 false]
  | .classifier | .filters | .gates | .meters | .queues | .shapers | .sched => tableRows
  | .fixer => [rCl 0x044 1 4 0x80000000 0, rCl 0x100 8 4 0 0xFFFFFFFF]
  | .egts => []
  | .region =>
    [rRw 0x100 2 4 0xFFFFFFFF 0 false, ⟨0x108, 1, 4, 0xA0000000, 0, 0x40000000, 0, 0, false⟩,
     ⟨0x200, 1, 4, 0x8000007F, 0, 0x10000000, 0, 0, false⟩, rRw 0x204 4 4 0xFFFFFFFF 0 false,
     rRw 0x400 64 8 0x07FFFFFF 0 false, rRw 0x404 64 8 0x3F3F 0 false]
  | .common =>
    [rRw 0x100 32 4 0xFF3FF0FF 0 false, rRw 0x180 1 4 0xFFF 0x800 false, rRw 0x184 4 4 0xFFFFFFFF 0 false,
     rCl 0x194 1 4 0x80000000 0xFFFF, rRw 0x200 1 4 0xFFFFFFE0 0 false, rRw 0x204 1 4 0x8000001F 2 false,
     rRw 0x208 1 4 0xFFFF 0 true, rRw 0x210 1 4 0xFFFFFFE0 0 false, rRw 0x214 1 4 0x8000031F 2 false,
     rRw 0x218 1 4 0xFFFFF800 0 false, rRw 0x220 1 4 0xFFFF 0 true, rCl 0x228 1 4 0xE0000000 0,
     rRo 0x400 80 4 0xFFFFFFFF]
  | .shutter => [rRw 0x040 2 4 0x3F 0 true, rRw 0x058 1 4 0x3F 0 true]
  | .banks =>
    [rCl 0x040 8 4 0xC0000000 0xFFFF, rCl 0x060 8 4 0 0xFFFFFFFF, rCl 0x080 8 4 0 0xFFFF,
     rCl 0x400 160 4 0 0xFFFFFFFF]
  | .dma =>
    [rRw 0x100 8 32 0xFFFFFFFF 0 false, rRw 0x104 8 32 0xFFFFFFFF 0 false, rRw 0x108 8 32 0x00FFFFFF 0 false,
     rRw 0x10C 8 32 0xE0003F00 0 false, rCl 0x110 8 32 0xC0000000 0]
  | .neg =>
    [rRw 0x040 1 4 0xE0000703 0xC0000000 false, rCl 0x044 1 4 0x38000000 0, rRw 0x200 80 4 0x87000000 0 false,
     rRo 0x400 80 4 0xFFFFFFFF]
  | .march =>
    [rRw 0x040 1 4 0x200000FF 0 false, rCl 0x044 1 4 0x78000000 0xFFFF, rCl 0x048 1 4 0x80000000 0,
     rCl 0x04C 1 4 0 0xFFFFFFFF]
  | .xbar => [rRw 0x040 32 4 0x800003F7 0 false, rRw 0x0C0 1 4 0xF 0 false]
  | .unit =>
    [rRw 0x200 32 4 0x8F003FFF 0 false, rRw 0x280 1 4 0xF 0 false, ⟨0x2C0, 1, 4, 0x80000000, 0, 0x20000000, 0, 0, false⟩,
     rRw 0x2C4 2 4 0x00FFFFFF 0 false, ⟨0x2D0, 1, 4, 0, 0xFFFFFFFF, 0, 0, 0, true⟩, rRw 0x300 16 4 0xDF7F 0 false,
     rRw 0x400 8 16 0xFFFF000F 0 false, rRw 0x404 8 16 0xFFFF0000 0 false, rRw 0x408 8 16 0xFFFF 0 false,
     rRw 0x40C 8 16 0x80000F9E 0 false, rRw 0x480 1 4 0xFFFFE001 0 false, rRw 0x484 1 4 0xFFFF 0 false,
     rRw 0x48C 1 4 0xFFFFF000 0 true, rRw 0x4C0 4 16 0xFFFFF001 0 false, rRw 0x4C4 4 16 0xFFFFFFFF 0 false,
     rRw 0x4C8 4 16 0xFFFF 0 false, rRw 0x540 1 4 0x8000000F 0 true, rCl 0x544 1 4 0x20000000 0,
     rRw 0x54C 1 4 0xFFFFFFFF 0 true, rRw 0x560 4 32 0xFFFFFFFF 0 true, rRw 0x564 4 32 0xFFFFFFFF 0 true,
     rRw 0x568 4 32 0xFFFFFFFF 0 true, rRw 0x56C 4 32 0xFFFFFFFF 0 true, rRw 0x570 4 32 0xFF000000 0 true]
  | .reel =>
    [rRw 0x050 4 4 0xFFFFFFFF 0 false, rRw 0x060 1 4 0x1F1F1F1F 0 false, rRw 0x080 16 4 0xE00071FF 0 false,
     rCl 0x100 16 4 0xFC 0, rRw 0x180 16 4 0x9F9F9F9F 0 false, rRw 0x1C0 16 4 0x3FBF 0 false,
     rRw 0x200 32 8 0xFF00FFFF 0 false, rRw 0x204 32 8 0xFFFFFFFF 0 false, rRw 0x600 16 4 0xFFFFFFFF 0 true,
     rCl 0x680 16 4 0x03000000 0, rCl 0x6C0 16 4 0 0xFFFF, rRw 0x700 16 4 0xFFFFFFFF 0xFFFFFFFF false,
     rRw 0x740 16 4 0x9F009F01 0x01000000 false, rRw 0x780 16 4 0xFFFFFFFF 0 true, rCl 0x7C0 1 4 0xFFFF 0,
     ⟨0x7C4, 1, 4, 0xFF0F, 0, 0x80000000, 0, 0, false⟩, rCl 0x7C8 1 4 0xFFFF 0, rRw 0x7CC 1 4 0xFFFF 0 false]

/-- The row of a list that holds offset `off`. -/
def findRow : List Row → Nat → Option Row
  | [], _ => none
  | r :: t, off =>
    if r.off ≤ off ∧ (off - r.off) % r.stride = 0 ∧ (off - r.off) / r.stride < r.n then some r else findRow t off

/-- The row of the register at `off` of a page type. -/
def rowAt (k : PK) (off : Nat) : Option Row := findRow (rowsOf k) off

/-- Reset value of the register at key `key` (page × 1024 + offset / 4). -/
def regDef (key : Nat) : Word :=
  match kindOf (key / 1024) with
  | none => 0
  | some (k, _) =>
    match rowAt k (key % 1024 * 4) with
    | none => 0
    | some r => r.reset

/-- Key of the register at `off` of page `p`. -/
def rkey (p off : Nat) : Nat := p * 1024 + off / 4

/-- The stored value of a register. -/
def State.reg (s : State) (p off : Nat) : Word := Tab.get (regDef (rkey p off)) s.regs (rkey p off)

/-- The state with a register's stored value replaced. -/
def State.setReg (s : State) (p off : Nat) (v : Word) : State :=
  { s with regs := Tab.set (regDef (rkey p off)) s.regs (rkey p off) v }

/-- A bit of a register. -/
def State.rbit (s : State) (p off i : Nat) : Bool := bit (s.reg p off) i

/-- A field of a register. -/
def State.rfld (s : State) (p off lo len : Nat) : Nat := fld (s.reg p off) lo len

/-- The state with a field of a register replaced. -/
def State.setFld (s : State) (p off lo len v : Nat) : State := s.setReg p off (ins (s.reg p off) lo len v)

/-- The state with a bit of a register replaced. -/
def State.setBit (s : State) (p off i : Nat) (b : Bool) : State := s.setFld p off i 1 (b2n b)

/-- The state with `n` added to a saturating counter field (R8). -/
def State.addSat (s : State) (p off lo len n : Nat) : State :=
  s.setFld p off lo len (min (s.rfld p off lo len + n) (2 ^ len - 1))

/-- A 48-bit counter, or a counter without a register, and its increment; counters wrap (R197). -/
def State.count (s : State) (key : Nat) : Nat := Tab.get 0 s.cnt key
def State.addCnt (s : State) (key n : Nat) : State :=
  { s with cnt := Tab.set 0 s.cnt key ((s.count key + n) % 2 ^ 48) }

/-- Interrupt flags that the body of a page type defines (R419). -/
def irqMask : PK → Word
  | .safe => 0x7FF | .dev => 1 | .loupe => 3 | .time => 7 | .sheet => 1 | .power => 3 | .recov => 1 | .fixer => 3
  | .common => 3 | .shutter => 1 | .banks => 3 | .dma => 0xFFFF | .neg => 7 | .march => 3 | .unit => 1
  | .reel => 0x7FFFF
  | .ident | .clocks | .host | .fport | .parser | .classifier | .filters | .gates | .meters | .queues | .shapers
  | .sched | .egts | .region | .xbar => 0

/-- TYPE code and COUNT of a page type (R424). -/
def typeOf (k : PK) : Nat × Nat :=
  match k with
  | .ident => (0x0001, 1) | .safe => (0x0002, 1) | .dev => (0x0003, 1) | .loupe => (0x0004, 1) | .time => (0x0005, 1)
  | .sheet => (0x0006, 1) | .power => (0x0007, 1) | .clocks => (0x0008, 1) | .host => (0x0009, 1)
  | .recov => (0x000A, 1) | .fport => (0x0010, 16) | .parser => (0x0020, 1) | .classifier => (0x0021, 1)
  | .filters => (0x0022, 1) | .gates => (0x0023, 1) | .meters => (0x0024, 1) | .fixer => (0x0025, 1)
  | .queues => (0x0026, 1) | .shapers => (0x0027, 1) | .sched => (0x0028, 1) | .egts => (0x0029, 1)
  | .region => (0x0040, 4) | .common => (0x0100, 16) | .shutter => (0x0101, 16) | .banks => (0x0102, 16)
  | .dma => (0x0103, 16) | .neg => (0x0104, 16) | .march => (0x0105, 16) | .xbar => (0x0106, 16)
  | .unit => (0x0200, 144) | .reel => (0x0300, 80)

/-- PGCAP.TABLE (R424). -/
def hasTable : PK → Bool
  | .classifier | .filters | .gates | .meters | .queues | .shapers | .sched => true
  | _ => false

/-- PGCAP.PEEK: the page holds an RC field or a pop register other than LOCKERR (R424). -/
def hasPeek (k : PK) : Bool :=
  decide (k = .egts) || (rowsOf k).any (fun r => decide (r.rc ≠ 0))
    || decide (k = .unit) || decide (k = .reel) || decide (k = .loupe)

/-- Offsets of the header registers (R419). -/
def pgCtl : Nat := 0x008
def pgRaw : Nat := 0x010
def pgEn : Nat := 0x014
def lockErr : Nat := 0x020

/-- The state with flag `i` of PGIRQ_RAW of page `p` set. -/
def State.flag (s : State) (p i : Nat) : State := s.setBit p pgRaw i true

/-- The summary of a served page (R420). -/
def State.pend (s : State) (p : Nat) : Bool := decide (s.reg p pgRaw &&& s.reg p pgEn ≠ 0)

/-- The value a register takes by a software write of `v` under its row. -/
def Row.write (r : Row) (old v : Word) : Word := ((old &&& ~~~r.rw) ||| (v &&& r.rw)) &&& ~~~(v &&& r.w1c)

/-- A software write of a register by the access codes alone. -/
def genWrite (k : PK) (p off : Nat) (v : Word) (s : State) : State :=
  match rowAt k off with
  | none => s
  | some r => s.setReg p off (r.write (s.reg p off) v)

/-- A software read of a register by the access codes alone: the value, and the state with RC fields cleared unless
the read is a peek (R8, R9). -/
def genRead (k : PK) (p off : Nat) (peek : Bool) (s : State) : Word × State :=
  match rowAt k off with
  | none => (s.reg p off, s)
  | some r =>
    if peek || decide (r.rc = 0) then (s.reg p off, s)
    else (s.reg p off, s.setReg p off (s.reg p off &&& ~~~r.rc))

/-- A write to a locked page is discarded for this register (R422). DEDUCED; log entry 18. -/
def lockedReg (k : PK) (off : Nat) : Bool :=
  if off = pgCtl ∨ off = pgEn then true
  else if off < 0x040 then false
  else
    match rowAt k off with
    | none => decide (k = .reel ∧ 0x800 ≤ off)
    | some r => decide (r.rw ||| r.cmd ≠ 0) && !r.free

/-- The discard of R422: LOCKERR counts it and keeps its offset. -/
def lockDiscard (p off : Nat) (s : State) : State :=
  (s.addSat p lockErr 0 16 1).setFld p lockErr 18 10 (off / 4)

/-- Every register of a page returned to its reset value, with its counters. -/
def pageReset (p : Nat) (s : State) : State :=
  { s with regs := Tab.drop (fun k => decide (k / 1024 = p)) s.regs,
           cnt := Tab.drop (fun k => decide (k / 1024 = p)) s.cnt }

/-- The offsets of a row. -/
def Row.offs (r : Row) : List Nat := (List.range r.n).map (fun i => r.off + i * r.stride)

/-- The RW and W1C fields of a page written with their reset values, PGIRQ_EN and PGIRQ_RAW included (R421). -/
def softFields (k : PK) (p : Nat) (keep : Nat → Bool) (s : State) : State :=
  let s := (s.setReg p pgRaw 0).setReg p pgEn 0
  each (rowsOf k) (fun r s =>
    each r.offs (fun off s =>
      if keep off then s
      else s.setReg p off ((s.reg p off &&& ~~~(r.rw ||| r.w1c)) ||| (r.reset &&& (r.rw ||| r.w1c)))) s) s

end Sys2Proof.Machine
end

