-- ==== Sys2Proof/Machine/Ops.lean ====
section
/-! DEFINITION. Shared operations: accessors, power domains and page presence, memory with SECDED, time, log. -/

namespace Sys2Proof.Machine

/-- The outcome type of a command. -/
abbrev Out := Host.Outcome State Fault Refusal

/-! ### Accessors -/

def State.u (s : State) (p : Nat) : UnitSt := Tab.get (UnitSt.reset 0) s.units p
def State.setU (s : State) (p : Nat) (x : UnitSt) : State :=
  { s with units := Tab.set (UnitSt.reset 0) s.units p x }
def State.r (s : State) (r : Nat) : ReelSt := Tab.get ReelSt.reset s.reels r
def State.setR (s : State) (r : Nat) (x : ReelSt) : State := { s with reels := Tab.set ReelSt.reset s.reels r x }
def State.c (s : State) (c : Nat) : Clu := Tab.get Clu.reset s.clus c
def State.setC (s : State) (c : Nat) (x : Clu) : State := { s with clus := Tab.set Clu.reset s.clus c x }
def State.l (s : State) (j : Nat) : Link := Tab.get Link.reset s.links j
def State.setL (s : State) (j : Nat) (x : Link) : State := { s with links := Tab.set Link.reset s.links j x }
def State.chan (s : State) (r k : Nat) : Chan := Tab.get Chan.reset (s.r r).ch k
def State.setChan (s : State) (r k : Nat) (x : Chan) : State :=
  s.setR r { s.r r with ch := Tab.set Chan.reset (s.r r).ch k x }

/-- A general register, and the unit with it replaced (R42). -/
def UnitSt.gr (x : UnitSt) (i : Nat) : Word := Tab.get 0 x.g i
def UnitSt.setG (x : UnitSt) (i : Nat) (v : Word) : UnitSt := { x with g := Tab.set 0 x.g i v }
/-- The unit with its special registers changed. -/
def UnitSt.setS (x : UnitSt) (f : Spr → Spr) : UnitSt := { x with spr := f x.spr }
def UnitSt.setD (x : UnitSt) (f : Dbg → Dbg) : UnitSt := { x with dbg := f x.dbg }
/-- The state with one unit changed. -/
def State.onU (s : State) (p : Nat) (f : UnitSt → UnitSt) : State := s.setU p (f (s.u p))
def State.onC (s : State) (c : Nat) (f : Clu → Clu) : State := s.setC c (f (s.c c))
def State.onR (s : State) (r : Nat) (f : ReelSt → ReelSt) : State := s.setR r (f (s.r r))
def State.onCh (s : State) (r k : Nat) (f : Chan → Chan) : State := s.setChan r k (f (s.chan r k))

/-- Entry CXDT[slot] in the copy of a unit (R116), and the entry that a halfword names when it begins a customer
instruction (R78, R130). -/
def State.dtOf (s : State) (p slot : Nat) : Word := Tab.get 0 (s.c (p / 9)).dt (32 * (p % 9) + slot)
def State.cxOf (s : State) (p : Nat) (h : Half) : Word :=
  if fld h 12 4 = 0xE then s.dtOf p (4 * fld h 9 3 + fld h 2 2) else 0

/-! ### ESTAT fields (R45) -/

def Spr.mode (x : Spr) : Nat := fld x.estat 14 2
def Spr.pmode (x : Spr) : Nat := fld x.estat 18 2
def Spr.ee (x : Spr) : Bool := bit x.estat 13
def Spr.rse (x : Spr) : Bool := bit x.estat 12
def Spr.ove (x : Spr) : Bool := bit x.estat 11
def Spr.dze (x : Spr) : Bool := bit x.estat 10
def UnitSt.mode (x : UnitSt) : Nat := x.spr.mode
def UnitSt.ee (x : UnitSt) : Bool := x.spr.ee

/-! ### Positions (R11, R28, R30) -/

/-- Cluster, and unit within the cluster, of a physical unit index. -/
def cOf (p : Nat) : Nat := p / 9
def uOf (p : Nat) : Nat := p % 9

/-- The logical unit a physical unit stands for: the spare that has taken over stands for the unit it replaces. -/
def State.logU (s : State) (p : Nat) : Nat :=
  if uOf p = 8 then (s.c (cOf p)).urepl.getD 8 else uOf p

/-- The physical unit that serves logical unit `u` of cluster `c`. -/
def State.physU (s : State) (c u : Nat) : Nat := if (s.c c).urepl = some u then 9 * c + 8 else 9 * c + u

/-- NODE and DIE of the die in the layout of COORD. -/
def State.coordDie (s : State) : Word := w32 (fld s.saf.straps 9 4 * 2 ^ 28 + fld s.saf.straps 7 2 * 2 ^ 26)

/-- COORD of a physical unit (R28, R30). -/
def State.coord (s : State) (p : Nat) : Word :=
  s.coordDie ||| w32 (cOf p / 4 * 2 ^ 24 + cOf p * 2 ^ 20 + s.logU p * 2 ^ 16 + (9 * cOf p + s.logU p) * 2 ^ 8)

/-- The physical Reel behind Reel page `n` (R425). -/
def State.physR (s : State) (n : Nat) : Nat :=
  match (s.c (n / 5)).rrepl with
  | some e => if n % 5 = e then 5 * (n / 5) + 4 else n
  | none => n

/-! ### Power domains (R385, R386) -/

/-- State of a domain right after a reset: idle spares in retention, unused die-link ports off, all others RUN. -/
def domDef (d : Nat) : Nat :=
  if d < 144 then (if d % 9 = 8 then 2 else 0)
  else if d < 224 then (if (d - 144) % 5 = 4 then 2 else 0)
  else if d < 266 then 0
  else 4

def State.dom (s : State) (d : Nat) : Nat := Tab.get (domDef d) s.pw.dom d
def State.setDom (s : State) (d v : Nat) : State :=
  { s with pw := { s.pw with dom := Tab.set (domDef d) s.pw.dom d v } }

/-- RUN or IDLE. -/
def State.awake (s : State) (d : Nat) : Bool := decide (s.dom d ≤ 1)

/-- Rank of a state code (R386). -/
def rankOf (st : Nat) : Nat := if st ≤ 1 then 3 else if st = 2 then 2 else if st = 3 then 1 else 0

/-- The parents of a domain (R385). -/
def parents (d : Nat) : List Nat :=
  if d < 144 then [224 + d / 9]
  else if d < 224 then [224 + (d - 144) / 5]
  else if d < 240 then [240 + (d - 224) / 4]
  else if d < 244 then [244, 263]
  else if d = 244 then []
  else if d = 245 then [244]
  else if d < 262 then [262]
  else if d = 262 then [244, 263]
  else if d = 263 then []
  else if d = 264 then [244]
  else if d = 265 then []
  else [244]

/-- The Developer has reached step 6 of its sequence: DVSTAT.STATE = 5 (R329). -/
def State.started (s : State) : Bool := decide (s.rfld 0x002 0x040 28 4 = 5)

/-- An OTP bit, and the number of ones of `n` bits from bit `lo`. -/
def State.otpBit (s : State) (i : Nat) : Bool := s.saf.otp.testBit i

def State.otpOnes (s : State) (lo n : Nat) : Nat := (below n fun i => s.otpBit (lo + i)).length

/-- The lifecycle: 0 OPEN, 1 PRODUCTION, 2 DECOMMISSIONED (R322). -/
def State.life (s : State) : Nat :=
  let n := s.otpOnes 1544 8
  if n = 0 then 0 else if n ≤ 4 then 1 else 2

/-- TMODE as sampled holds every switched domain in reset (R402). -/
def State.testMode (s : State) : Bool := decide (s.saf.tmode ≠ 0) && decide (s.life = 0)

/-- Region `r` is up: the Developer has passed step 1 after the last whole-die reset, the region-common domain runs and
the region is not held in reset (R329, R396). A region counts as being woken (R26) until its region-common domain runs;
from then on an access waits only for segments that are not yet cleared (R289; DESIGN CHOICE, log entry 28). A region whose
region-common domain is in NAP is not up (DESIGN CHOICE; log entry 67). -/
def State.regUp (s : State) (r : Nat) : Bool :=
  !s.saf.por && !s.dev.due && !s.testMode && s.awake (240 + r) && decide (¬ Scope.region (BitVec.ofNat 2 r).toFin ∈ s.pw.held)

/-- Cluster `c` is up: its cluster-common domain runs and it is not held in reset. -/
def State.cluUp (s : State) (c : Nat) : Bool :=
  s.regUp (c / 4) && s.awake (224 + c) && decide (¬ Scope.cluster (BitVec.ofNat 4 c).toFin ∈ s.pw.held)

/-- Unit `p` is powered and out of reset. -/
def State.unitUp (s : State) (p : Nat) : Bool :=
  !s.saf.por && !s.testMode && s.awake p && decide ((s.u p).stat ≠ .held)

/-- Reel `r` runs and is not held in reset. -/
def State.reelUp (s : State) (r : Nat) : Bool := !s.saf.por && !s.testMode && s.awake (144 + r) && !(s.r r).held

/-- NGSTAT.UPHASE of cluster `c` (R292). -/
def State.uphase (s : State) (c : Nat) : Nat := s.rfld (pgNeg c) 0x044 20 3

/-- The page that holds the registers of page `p`: unit and Reel pages follow a takeover (R425). -/
def State.physPage (s : State) (p : Nat) : Nat :=
  match kindOf p with
  | some (.unit, g) =>
    (match (s.c (g / 9)).urepl with
     | some u => if s.uphase (g / 9) = 6 ∧ (g % 9 = u) then pgUnit (9 * (g / 9) + 8) else p
     | none => p)
  | some (.reel, n) => pgReel (s.physR n)
  | _ => p

/-- The die is out of reset but for its regions: the Loupe does not hold it in warm reset, nor TMODE in test (R363, R402). -/
def State.dieUp (s : State) : Bool := !s.saf.por && !s.lou.low && !s.testMode

/-- The page is served by its own function: the domain of R424 runs and is out of reset. -/
def State.served (s : State) (p : Nat) : Bool :=
  if s.saf.por then false
  else
    match kindOf p with
    | none => false
    | some (.ident, _) | some (.safe, _) | some (.dev, _) | some (.loupe, _) | some (.recov, _) => true
    | some (.time, _) => s.dieUp && s.awake 263
    | some (.sheet, _) | some (.power, _) | some (.clocks, _) | some (.host, _) => s.dieUp && s.awake 244
    | some (.fport, i) => s.dieUp && s.awake (246 + i)
    | some (.parser, _) | some (.classifier, _) | some (.filters, _) | some (.gates, _) | some (.meters, _)
    | some (.fixer, _) | some (.queues, _) | some (.shapers, _) | some (.sched, _) | some (.egts, _) => s.dieUp && s.awake 262
    | some (.region, r) => s.regUp r
    | some (.dma, c) => s.cluUp c && s.started
    | some (.common, c) | some (.shutter, c) | some (.banks, c) | some (.neg, c) | some (.march, c)
    | some (.xbar, c) => s.cluUp c
    | some (.unit, _) => s.unitUp (s.physPage p - 0x200)
    | some (.reel, _) => s.reelUp (s.physPage p - 0x300)

/-- INST of a page: both pages of a taken-over part read the replaced part's number (R425). -/
def State.instOf (s : State) (p : Nat) : Nat :=
  match kindOf p with
  | some (.unit, g) =>
    (match (s.c (g / 9)).urepl with
     | some u => if s.uphase (g / 9) = 6 ∧ (g % 9 = u ∨ g % 9 = 8) then 9 * (g / 9) + u else g
     | none => g)
  | some (.reel, n) =>
    (match (s.c (n / 5)).rrepl with
     | some e => if n % 5 = e ∨ n % 5 = 4 then 5 * (n / 5) + e else n
     | none => n)
  | some (_, i) => i
  | none => 0

/-- The summary of a page as interrupt sources see it: 0 for a page that is not served (R143, R420). -/
def State.summary (s : State) (p : Nat) : Bool := s.served p && s.pend (s.physPage p)

/-! ### Time (R243 to R247) -/

/-- The effective increment of the next TBCLK edge in units of 2^-24 ns (R245). -/
def State.effInc (s : State) : Nat :=
  let inc := (s.reg 0x004 0x044).toNat
  if s.tim.slew = 0 then inc
  else if 0 < s.tim.slew then inc + 2 ^ 23 else inc - 2 ^ 23

/-- A copy of the time base in units of 2^-16 ns: the visible bits of the die time base at the last TBCLK edge, and one
eighth of the effective increment of each fabric cycle since (R243, R247). -/
def State.copy (s : State) : Nat := s.tim.base / 2 ^ 8 + s.tim.adv / 2 ^ 11

/-- T: the integer nanoseconds of a copy. -/
def State.T (s : State) : Nat := s.copy / 2 ^ 16 % 2 ^ 64

/-- T of the fabric cycle `n` cycles before the current one, for `n` from 1 to 5; one before the model's first cycle
counts as 1 ns a cycle. -/
def State.tAgo (s : State) (n : Nat) : Nat := (s.tim.hist[n - 1]?).getD ((s.T + 2 ^ 64 - n) % 2 ^ 64)

/-- The Reel cycle number: Reel cycles last two fabric cycles (R151). -/
def State.rcyc (s : State) : Nat := s.tim.cyc / 2

/-! ### Event log (R348 to R350) -/

/-- T as the Safelight keeps it: in time-base SLEEP the saved T and the slow-clock ticks since (R249, R348). -/
def State.logT (s : State) : Nat :=
  match s.tim.saved with
  | some (t, n) => (t + n * 1953125 / 64) % 2 ^ 64
  | none => s.T

/-- The cycle of the 16 MHz RC in which an event arose. -/
def LogE.rc (e : LogE) : Nat := e.cyc * 2 / 125

/-- The last events of the intake that arose in the cycle of an event of code `code` and have a higher code: that event
enters before them (R350). -/
def State.logAfter (s : State) (code : Nat) : List LogE :=
  let l := s.saf.intake.filter fun e => decide (e.rc = s.tim.cyc * 2 / 125 ∧ code < e.code)
  if l.getLast?.all fun e => decide (e.seq + 1 = s.saf.seq) then l else []

/-- An event enters the intake queue, in ascending CODE among those of its 16 MHz cycle; one that finds no room is lost and
counted (R350). Every event takes a SEQ. DESIGN CHOICE; log entry 30. -/
def State.logEv (s : State) (code : Nat) (coord d0 d1 : Word) : State :=
  let l := s.logAfter code
  let e : LogE := { code := code, cyc := s.tim.cyc, seq := (l.head?.map LogE.seq).getD s.saf.seq,
                    t := BitVec.ofNat 64 s.logT, coord := coord, d0 := d0, d1 := d1 }
  let q := s.saf.intake.take (s.saf.intake.length - l.length) ++ e :: l.map fun x => { x with seq := x.seq + 1 }
  let t := { s with saf := { s.saf with seq := s.saf.seq + 1, intake := q } }
  if q.length ≤ Config.logIntake then t
  else ({ t with saf := { t.saf with intake := q.dropLast } }).addSat 0x001 0x254 16 16 1

/-- An event that names no unit: only NODE and DIE are set. -/
def State.logDie (s : State) (code : Nat) (d0 d1 : Word) : State := s.logEv code s.coordDie d0 d1

/-! ### Memory (R5, R60, R263, R227, R228) -/

/-- Key of a byte of bank memory, and of region memory. -/
def bankKey (c a : Nat) : Nat := c * 0x80000 + a
def regKey (r off : Nat) : Nat := 0x800000 + r * 0x200000 + off

/-- A byte of memory; one that nothing has written reads 0 (DESIGN CHOICE; log entry 7). -/
def State.byte (s : State) (k : Nat) : Byte := Tab.get 0 s.mem k
def State.setByte (s : State) (k : Nat) (b : Byte) : State := { s with mem := Tab.set 0 s.mem k b }

/-- The `n` bytes from key `k` as a little-endian number (R5). -/
def State.leN (s : State) (k : Nat) : Nat → Nat
  | 0 => 0
  | n + 1 => (s.byte k).toNat + 256 * s.leN (k + 1) n

/-- The state with the `n` low bytes of `v` stored from key `k` on, little-endian. -/
def State.setLE (s : State) (k v : Nat) : Nat → State
  | 0 => s
  | n + 1 => (s.setByte k (BitVec.ofNat 8 v)).setLE (k + 1) (v / 256) n

/-- Syndrome of the storage word that holds key `k`. -/
def State.syn (s : State) (k : Nat) : Byte := Tab.get 0 s.synd (k / 8)
def State.setSyn (s : State) (k : Nat) (b : Byte) : State := { s with synd := Tab.set 0 s.synd (k / 8) b }

/-- Number of ones of a byte-wide value. -/
def weight (n : Nat) : Nat := (List.range 8).foldl (fun a i => a + n / 2 ^ i % 2) 0

/-- The columns H_0 to H_63 of the SECDED code (R227). -/
def hCols : List Nat :=
  (List.range 256).filter (fun n => weight n = 3) ++ [0x1F, 0x2F, 0x37, 0x3B, 0x3D, 0x3E, 0x4F, 0x57]

/-- The check bits of a data word (R227). -/
def secded (d : DWord) : Nat :=
  (hCols.zipIdx).foldl (fun a (h, i) => if d.getLsbD i then a ^^^ h else a) 0

/-- Outcome of a read of a storage word (R228). -/
inductive Ecc
  | ok
  | corr
  | unc
  deriving DecidableEq, Repr

/-- The data bit that a syndrome names. -/
def synBit (b : Byte) : Option Nat := hCols.findIdx? (fun h => h = b.toNat)

/-- Classification of a syndrome (R228). -/
def synClass (b : Byte) : Ecc :=
  if b = 0 then .ok
  else if weight b.toNat = 1 then .corr
  else if (synBit b).isSome then .corr else .unc

/-- A data word as it reads after correction. -/
def fixWord (d : DWord) (b : Byte) : DWord :=
  if b = 0 then d
  else
    match synBit b with
    | some i => d ^^^ BitVec.ofNat 64 (2 ^ i)
    | none => d

/-- The 64 bits of the storage word that holds key `k`, corrected. -/
def State.word8 (s : State) (k : Nat) : DWord :=
  fixWord (BitVec.ofNat 64 (s.leN (k / 8 * 8) 8)) (s.syn k)

/-- The state with a whole storage word written with good check bits. -/
def State.setWord8 (s : State) (k : Nat) (d : DWord) : State :=
  (s.setLE (k / 8 * 8) d.toNat 8).setSyn k 0

/-- The error counters of the memory that holds key `k`: BKSTAT, BKUNC and the UNC flags of its bank, or RMCORR and
RMUNC of its region (R273). -/
def State.countEcc (s : State) (k : Nat) (e : Ecc) : State :=
  match e with
  | .ok => s
  | .corr =>
    if k < 0x800000 then s.addSat (pgBanks (k / 0x80000)) (0x040 + 4 * (k % 0x80000 / 0x10000)) 0 16 1
    else s.addCnt (rkey (pgRegion ((k - 0x800000) / 0x200000)) 0x240) 1
  | .unc =>
    if k < 0x800000 then
      (((s.addSat (pgBanks (k / 0x80000)) (0x080 + 4 * (k % 0x80000 / 0x10000)) 0 16 1).setBit (pgBanks (k / 0x80000))
        (0x040 + 4 * (k % 0x80000 / 0x10000)) 30 true).flag (pgBanks (k / 0x80000)) 0)
    else s.addCnt (rkey (pgRegion ((k - 0x800000) / 0x200000)) 0x248) 1

/-- A read of `n` bytes within one storage word: outcome, data, and the state with the counters of R273. -/
def State.memRead (s : State) (k n : Nat) : Ecc × Nat × State :=
  let e := synClass (s.syn k)
  (e, (s.word8 k).toNat / 2 ^ (8 * (k % 8)) % 2 ^ (8 * n), s.countEcc k e)

/-- A store of `n` bytes merged into its storage word: the merge read may find an uncorrectable word, and then nothing
is written (R94). -/
def State.memMerge (s : State) (k n v : Nat) : Ecc × State :=
  let e := synClass (s.syn k)
  let s' := s.countEcc k e
  if e = .unc then (e, s')
  else
    let d := (s.word8 k).toNat
    let sh := 2 ^ (8 * (k % 8))
    let old := d / sh % 2 ^ (8 * n)
    (e, s'.setWord8 k (BitVec.ofNat 64 (d - old * sh + v % 2 ^ (8 * n) * sh)))

/-- Every byte of `n` bytes from key `k`, as a list. -/
def State.bytesAt (s : State) (k n : Nat) : List Byte := (List.range n).map (fun i => s.byte (k + i))

/-- The state with a list of bytes stored from key `k` on and good check bits (a whole-word writer). -/
def State.setBytes (s : State) (k : Nat) : List Byte → State
  | [] => s
  | b :: t => ((s.setByte k b).setSyn k 0).setBytes (k + 1) t

/-- Memory and its syndromes are in canonical form: keys strictly rising, no entry equal to 0, what an unlisted key
reads as. -/
def Memory.wf (s : State) : Bool := Tab.wf (fun _ => (0 : Byte)) s.mem && Tab.wf (fun _ => (0 : Byte)) s.synd

/-! ### Byte strings -/

/-- A little-endian number of a list of bytes. -/
def leNat : List Byte → Nat
  | [] => 0
  | b :: t => b.toNat + 256 * leNat t

/-- The `n` low bytes of a number, lowest first. -/
def natLE (v : Nat) : Nat → List Byte
  | 0 => []
  | n + 1 => BitVec.ofNat 8 v :: natLE (v / 256) n

/-- A big-endian number of a list of bytes. -/
def beNat (l : List Byte) : Nat := l.foldl (fun a b => a * 256 + b.toNat) 0

/-- The `n` low bytes of a number, highest first. -/
def natBE (v n : Nat) : List Byte := (natLE v n).reverse

/-- One step of the CRC-32C fold of R105 over a bit. -/
def crcStep (c : Nat) : Nat := if c % 2 = 1 then (c / 2) ^^^ 0x82F63B78 else c / 2

/-- CRC-32C fold of one byte (R105). -/
def crcByte (c : Nat) (b : Byte) : Nat :=
  crcStep (crcStep (crcStep (crcStep (crcStep (crcStep (crcStep (crcStep (c ^^^ b.toNat))))))))

/-- CRC-32C fold of a list of bytes, with no initial value and no final XOR. -/
def crcFold (c : Nat) (l : List Byte) : Nat := l.foldl crcByte c

/-- The CRC-32C of a byte string (R12). -/
def crc32c (l : List Byte) : Word := w32 (crcFold 0xFFFFFFFF l ^^^ 0xFFFFFFFF)

/-- CRC-32C of a list of words in address order. -/
def crcWords (l : List Word) : Word := crc32c (l.flatMap fun w => natLE w.toNat 4)

/-- CRC-32C fold of the four bytes of a word, [7:0] first. -/
def crcWord (c w : Word) : Word := w32 (crcFold c.toNat (natLE w.toNat 4))

/-- Bits of a list as a number, first bit lowest. -/
def bitsLE (l : List Bool) : Nat := l.foldr (fun b a => b2n b + 2 * a) 0

end Sys2Proof.Machine
end

