-- ==== Sys2Proof/Machine/Except.lean ====
section
/-! DEFINITION. Shutter locks (R276 to R281), events (R102, R103), pending causes (R134 to R145), exception entry
(R137), lockup (R147) and takeover triggers (R297). -/

namespace Sys2Proof.Machine

/-! ### Interrupt sources and pending causes -/

/-- Source `i` of a unit is pending: enabled, above the thresholds, and its page summary seen as 1 (R143, R373). -/
def State.srcPend (s : State) (p i : Nat) : Bool :=
  let v := s.reg (pgUnit p) (0x200 + 4 * i)
  bit (s.u p).irq i && bit v 31 && decide (s.rfld (pgUnit p) 0x280 0 4 < fld v 24 4)
    && (decide ((s.u p).mode ≠ 3) || decide (s.rfld (pgUnit p) 0x540 0 4 < fld v 24 4))

/-- The source that would be taken: highest PRIO, then lowest number (R143). -/
def State.srcBest (s : State) (p : Nat) : Option Nat :=
  (List.range 32).foldl (fun a i =>
    if s.srcPend p i then
      (match a with
       | none => some i
       | some j =>
         if s.rfld (pgUnit p) (0x200 + 4 * j) 24 4 < s.rfld (pgUnit p) (0x200 + 4 * i) 24 4 then some i else some j)
    else a) none

/-- A DEBUG cause is pending. -/
def UnitSt.dbgPend (x : UnitSt) : Bool := x.dbg.req || x.dbg.wp.isSome

/-- An asynchronous cause of R134 is pending. -/
def State.anyPend (s : State) (p : Nat) : Bool :=
  (s.u p).dbgPend || (s.u p).dbg.wdw.isSome || !(s.u p).lates.isEmpty || (s.srcBest p).isSome

/-- An asynchronous cause can be taken at the next point: one is pending, EE = 1, and no replay holds it (R298).
DESIGN CHOICE; log entry 5. -/
def State.takeable (s : State) (p : Nat) : Bool :=
  (s.u p).ee && !(s.u p).replay && !(s.u p).locked && s.anyPend p

/-- The single-stepped instruction has ended: DEBUG REQUEST pending, STEP written 0 (R377). -/
def State.stepEnd (s : State) (p : Nat) : State :=
  if (s.u p).dbg.stepping then
    (s.onU p fun x => x.setD fun d => { d with stepping := false, req := true, byLoupe := false }).setBit
      (pgUnit p) 0x540 31 false
  else s

/-- A sleeping WFE continues when an event or a pending cause has reached the unit (R102). -/
def State.wake (s : State) (p : Nat) : State :=
  let x := s.u p
  if x.stat = .wfe then
    if x.replay then (s.setU p { x with stat := .run }).stepEnd p
    else if s.anyPend p && x.ee then (s.setU p { x with stat := .run }).stepEnd p
    else if s.anyPend p || x.evt then (s.setU p { x with stat := .run, evt := false }).stepEnd p
    else s
  else s

/-- An event reaches a unit: the latch is set in a running, sleeping or waiting unit and the event is discarded in a
unit in reset, in retention, powered down or locked up (R103). -/
def State.event (s : State) (p : Nat) : State :=
  if s.unitUp p && !(s.u p).locked then (s.onU p fun x => { x with evt := true }).wake p else s

/-! ### Shutter -/

def Clu.lk (x : Clu) (n : Nat) : Lock := Tab.get Lock.reset x.locks n
def Clu.setLk (x : Clu) (n : Nat) (l : Lock) : Clu := { x with locks := Tab.set Lock.reset x.locks n l }
def Clu.shmy (x : Clu) (u : Nat) : ShMy := Tab.get ShMy.reset x.my u
def Clu.setMy (x : Clu) (u : Nat) (m : ShMy) : Clu := { x with my := Tab.set ShMy.reset x.my u m }

/-- The locks a logical unit holds, in rising order. -/
def Clu.heldBy (x : Clu) (u : Nat) : List Nat := below 64 fun n => decide ((x.lk n).holder = some u)

/-- The pending request of `u`, for any lock, withdrawn (R277 Cancel, R279). -/
def Clu.withdraw (x : Clu) (u : Nat) : Clu :=
  if (x.shmy u).pend then
    let n := (x.shmy u).req
    (x.setLk n { x.lk n with wait := (x.lk n).wait.filter (fun v => v ≠ u) }).setMy u
      { x.shmy u with pend := false, granted := false, micro := false }
  else x

/-- A mask of lock numbers in `lo .. lo + 31`. -/
def lockMask (l : List Nat) (lo : Nat) : Word :=
  l.foldl (fun a n => if lo ≤ n ∧ n < lo + 32 then a ||| w32 (2 ^ (n - lo)) else a) 0

/-- The locks of a list released as abandoned in fabric cycle `t` - 1 (R279). -/
def Clu.abandon (x : Clu) (t : Nat) (l : List Nat) : Clu :=
  each l (fun n x => x.setLk n { x.lk n with holder := none, aband := true, freed := t, won := none }) x

/-- The locks `l` of logical unit `u` released with ABAND = 1, its pending request withdrawn, and ABANDON and the log
record when at least one lock is released (R279). -/
def State.abandonLocks (s : State) (c u : Nat) (l : List Nat) : State :=
  let s' := s.onC c fun x => (x.abandon (s.tim.cyc + 1) l).withdraw u
  if l.isEmpty then s'
  else (s'.flag (pgShutter c) 0).logEv 0x14 (s.coord (s.physU c u)) (lockMask l 0) (lockMask l 32)

/-- Every lock of a logical unit released as abandoned. -/
def State.abandonAll (s : State) (c u : Nat) : State := s.abandonLocks c u ((s.c c).heldBy u)

/-- Lock `n` granted to logical unit `u`: holder, SHMY fields, rank, and the unit's event latch (R277). -/
def State.grant (s : State) (c n u : Nat) : State :=
  let l := (s.c c).lk n
  let m := (s.c c).shmy u
  let s' := s.onC c fun x =>
    (x.setLk n { holder := some u, aband := false, wait := l.wait.filter (fun v => v ≠ u),
                 rank := l.rank.filter (fun v => v ≠ u) ++ [u], freed := l.freed, won := none }).setMy u
      { m with pend := false, granted := true, aband := l.aband, req := n, micro := false }
  s'.event (s.physU c u)

/-- A request of `u` that a lock held by another unit keeps pending. -/
def ShMy.pending (m : ShMy) (n : Nat) (micro : Bool) : ShMy :=
  { m with pend := true, granted := false, req := n, micro := micro }

/-- A free lock granted to `u` at once. -/
def State.grantNow (s : State) (c n u : Nat) (micro : Bool) : State :=
  let l := (s.c c).lk n
  let w : Won :=
    ⟨s.tim.cyc, ((s.c c).shmy u).pending n micro, l.rank, l.aband, (s.u (s.physU c u)).evt⟩
  (s.grant c n u).onC c fun x => x.setLk n { x.lk n with won := some w }

/-- Lock `n` was granted at once in this cycle to a unit that ranks below `u`, which requests it in the same cycle: what
the grant replaced (R278). -/
def State.outranks (s : State) (c n u : Nat) : Option (Nat × Won) :=
  let l := (s.c c).lk n
  match l.holder, l.won with
  | some v, some w =>
    if w.cyc = s.tim.cyc ∧ w.rank.idxOf u < w.rank.idxOf v then some (v, w) else none
  | _, _ => none

/-- The grant of `v` undone: its request is pending, as one that has lost to a higher rank. DESIGN CHOICE; log entry 43. -/
def State.ungrant (s : State) (c n v : Nat) (w : Won) : State :=
  (s.onC c fun x =>
    (x.setLk n { x.lk n with holder := none, aband := w.aband, wait := (x.lk n).wait ++ [v], rank := w.rank,
                             won := none }).setMy v w.my).onU (s.physU c v) fun x => { x with evt := w.evt }

/-- Outcome of a request for lock `n` by logical unit `u` (R277, R278): the state, or the highest lock held when the
request raises LOCK_ORDER. A lock that became free in this cycle still counts as held. -/
def State.acquire (s : State) (c u n : Nat) (micro : Bool) : State × Option Nat :=
  let x := s.c c
  let held := x.heldBy u
  if n ∈ held ∧ (x.shmy u).req = n ∧ (x.shmy u).granted then
    (s.onC c fun x => x.setMy u { x.shmy u with aband := false }, none)
  else
    match (held.filter (fun m => n ≤ m)).getLast? with
    | some m => (s, some m)
    | none =>
      if (x.shmy u).pend then (s.onC c fun x => x.setMy u { x.shmy u with refused := true }, none)
      else if (x.lk n).holder = none ∧ (x.lk n).wait = [] ∧ (x.lk n).freed ≠ s.tim.cyc + 1 then
        (s.grantNow c n u micro, none)
      else
        match s.outranks c n u with
        | some (v, w) => ((s.ungrant c n v w).grantNow c n u micro, none)
        | none =>
          (s.onC c fun x =>
            (x.setLk n { x.lk n with wait := (x.lk n).wait ++ [u] }).setMy u ((x.shmy u).pending n micro), none)

/-- A release of lock `n` by logical unit `u` (R277). -/
def State.release (s : State) (c u n : Nat) : State :=
  if ((s.c c).lk n).holder = some u then s.onC c fun x => x.setLk n { x.lk n with holder := none, freed := s.tim.cyc + 1, won := none }
  else s.onC c fun x => x.setMy u { x.shmy u with relerr := true }

/-- The waiter that ranks highest in the order of lock `n`, when the lock became free in an earlier cycle. -/
def State.nextHolder (s : State) (c n : Nat) : Option Nat :=
  let l := (s.c c).lk n
  if l.holder = none ∧ l.freed ≠ s.tim.cyc + 1 then l.rank.find? (fun u => decide (u ∈ l.wait)) else none

/-- The grant of a free lock to the waiter that ranks highest in its order (R277). -/
def State.lockGrant (s : State) (c n : Nat) : State :=
  match s.nextHolder c n with
  | some u => s.grant c n u
  | none => s

/-- CANCEL (R277); a grant that this cycle makes stands (R278). -/
def State.cancel (s : State) (c u : Nat) : State :=
  let m := (s.c c).shmy u
  if m.pend && decide (s.nextHolder c m.req = some u) then s.lockGrant c m.req
  else s.onC c fun x => x.withdraw u

/-! ### Entry, lockup, triggers -/

/-- Every issued product written to MH:ML, oldest first (R91, R137). -/
def UnitSt.flushProds (x : UnitSt) : UnitSt :=
  match x.prods.getLast? with
  | none => x
  | some d =>
    { x with prods := [], spr := { x.spr with mh := d.extractLsb' 32 32, ml := d.extractLsb' 0 32 } }

/-- A request that microcode made and that is still pending is withdrawn when its instruction, and not a later one, is
abandoned (R281). -/
def State.dropMicro (s : State) (p : Nat) : State :=
  let c := cOf p
  let u := s.logU p
  if ((s.u p).micro.map (fun m => m.req)).getD false && ((s.c c).shmy u).pend && ((s.c c).shmy u).micro then
    s.onC c fun x => x.withdraw u
  else s

/-- ESTAT after an exception entry: PMODE and PEE saved, MODE as the cause decides, EE = 0 (R137). -/
def entryEstat (e : Word) (code : Nat) : Word :=
  let m := fld e 14 2
  ins (insBit (ins (insBit e 17 (bit e 13)) 18 2 m) 13 false) 14 2 (if code = 0x11 ∨ m = 3 then 3 else 1)

/-- Exception entry: the entry cycle of R137 with the values of R135. -/
def State.enter (s : State) (p code sub : Nat) (epc info bad : Word) : State :=
  let s := (s.dropMicro p).stepEnd p
  s.onU p fun x =>
    let x := x.flushProds
    { x with
      spr := { x.spr with estat := entryEstat x.spr.estat code, cause := w32 (sub * 256 + code), info := info,
                          epc := epc &&& ~~~1, badaddr := bad },
      pc := x.spr.ebase, hq := [], hwOld := [], micro := none, stat := .run, first := true, wrap := false,
      dbg := if code = 0x11 ∧ fld x.spr.estat 14 2 ≠ 3 then { x.dbg with heldUs := 0 } else x.dbg }

/-- Nothing waits any longer for the outstanding requests of unit `p`: a die-window request is marked by 16 added to its
KIND. -/
def State.orphan (s : State) (p : Nat) : State :=
  let s := { s with hreqs := s.hreqs.map fun (q : HReq) => { q with dead := q.dead || decide (q.id = p) } }
  each [0, 1, 2] (fun j s =>
    s.setL j { s.l j with out := (s.l j).out.map fun (q : Nat × Nat) => if q.1 = p then (p, q.2 % 16 + 16) else q }) s

/-! ### Resources and masters (R265) -/

/-- Keys of the arbiters: port A and port B of bank `b` of cluster `c`, and the memory port and the uplink of region `r`. -/
def arbA (c b : Nat) : Nat := 2 * (8 * c + b)
def arbB (c b : Nat) : Nat := 2 * (8 * c + b) + 1
def arbM (r : Nat) : Nat := 256 + r
def arbU (r : Nat) : Nat := 260 + r

def State.ab (s : State) (key : Nat) : Arb := Tab.get Arb.reset s.arb key
def State.onAb (s : State) (key : Nat) (f : Arb → Arb) : State :=
  { s with arb := Tab.set Arb.reset s.arb key (f (s.ab key)) }

/-- The master number of a unit at the banks of its cluster (R265). -/
def State.portNo (s : State) (p : Nat) : Nat := s.logU p

/-- The master number of a unit at the uplink of its region, and at the memory port of region `r`, which a unit of another
region reaches through the fabric (R257, R265). -/
def State.upNo (s : State) (p : Nat) : Nat := 9 * (cOf p % 4) + s.logU p
def State.regNo (s : State) (p r : Nat) : Nat := if cOf p / 4 = r then s.upNo p else 0x2B

/-- The arbiter without master `m`: its grant is withdrawn, or its place among the displaced. -/
def Arb.without (a : Arb) (m : Nat) : Arb :=
  if a.holder.any (fun h => decide (h.1 = m)) || a.disp.any fun h => decide (h.1 = m) then
    { a with holder := a.holder.filter fun h => decide (h.1 ≠ m), disp := a.disp.filter fun h => decide (h.1 ≠ m),
             served := a.served.filter (fun i => i ≠ m) ++ [m] }
  else a

/-- The requests of unit `p` are withdrawn at the arbiters it reaches under a number of its own (R272). -/
def State.withdraw (s : State) (p : Nat) : State :=
  each ((List.range 8).map (fun b => (arbA (cOf p) b, s.portNo p)) ++
      [(arbM (cOf p / 4), s.upNo p), (arbU (cOf p / 4), s.upNo p)])
    (fun q t => t.onAb q.1 fun a => a.without q.2) s

/-- The actions of R147 that stop a unit, with the LK record: `code` 0 for a takeover trigger other than lockup. -/
def State.stopUnit (s : State) (p code sub : Nat) (epc info bad : Word) (nested : Bool) : State :=
  let lk := w32 (2 ^ 31 + b2n nested * 2 ^ 30 + code * 2 ^ 16 + sub * 2 ^ 8)
  let s := (s.dropMicro p).withdraw p
  let s := s.onU p fun x => { x with locked := true, stat := .run, micro := none, hq := [], hwOld := [] }
  let s := (((s.setReg (pgUnit p) 0x2A0 lk).setReg (pgUnit p) 0x2A4 epc).setReg (pgUnit p) 0x2A8 bad).setReg
    (pgUnit p) 0x2AC info
  let s := s.flag (pgUnit p) 0
  let s := if s.logU p < 8 then s.setBit (pgNeg (cOf p)) (0x080 + 16 * s.logU p) 28 false else s
  let s := if s.logU p < 8 then s.abandonAll (cOf p) (s.logU p) else s
  s.logEv 0x10 (s.coord p) lk epc

/-- The unit number a trigger names: the logical unit, or 8 for a spare that has not finished taking over. -/
def State.trigU (s : State) (p : Nat) : Nat :=
  if uOf p = 8 then (if s.uphase (cOf p) = 6 then s.logU p else 8) else uOf p

/-- A takeover trigger recorded for the cluster; one of a unit whose takeover is in progress is ignored (R297). -/
def State.trigger (s : State) (p code : Nat) : State :=
  let c := cOf p
  let u := s.trigU p
  let ph := s.uphase c
  if 1 ≤ ph ∧ ph ≤ 5 ∧ s.rfld (pgNeg c) 0x044 16 3 = u then s
  else s.onC c fun x =>
    if x.trig.any (fun t => decide (t.1 = u)) then x else { x with trig := x.trig ++ [(u, code, s.T)] }

/-- A takeover trigger other than lockup: the unit stops and LKPC holds the first instruction not executed (R297). NESTED,
SUB, LKADDR and LKINFO are written 0 (DESIGN CHOICE; log entry 58). -/
def State.stopTrigger (s : State) (p code : Nat) : State :=
  if (s.u p).locked then s.trigger p code
  else (s.stopUnit p 0 0 (s.u p).pc 0 0 false).trigger p code

/-- Lockup: the LK record keeps what the cause would have written (R147, R148). -/
def State.lockup (s : State) (p code sub : Nat) (epc info bad : Word) : State :=
  (s.stopUnit p code sub epc info bad (s.u p).first).trigger p 1

/-- A synchronous cause: ECC_UNCORR starts a takeover while ECCTO = 1 (R292); otherwise entry while EE = 1 and lockup
while EE = 0 (R134, R146). -/
def State.raise (s : State) (p code sub : Nat) (epc info bad : Word) : State :=
  if code = 0x10 ∧ s.rbit (pgNeg (cOf p)) 0x040 29 = true ∧ s.logU p < 8 then s.stopTrigger p 4
  else if (s.u p).ee then s.enter p code sub epc info bad
  else s.lockup p code sub epc info bad

/-- The pending asynchronous cause that R145 ranks first, taken with EPC = `epc`. DEDUCED; log entry 42. -/
def State.takeAsync (s : State) (p : Nat) (epc : Word) : State :=
  let x := s.u p
  match x.dbg.wp with
  | some (n, a) =>
    (s.onU p fun x => x.setD fun d => { d with wp := none }).enter p 0x11 2 epc (w32 n) a
  | none =>
    if x.dbg.req then
      (s.onU p fun x => x.setD fun d => { d with req := false, byLoupe := false }).enter p 0x11 1 epc 0 0
    else
      match x.dbg.wdw with
      | some n => (s.onU p fun x => x.setD fun d => { d with wdw := none }).enter p 0x12 0 epc (w32 n) 0
      | none =>
        match x.lates with
        | (a, code) :: t =>
          (s.onU p fun x => { x with lates := t }).enter p 0x0E 0 epc (w32 (t.length * 256 + code)) a
        | [] =>
          match s.srcBest p with
          | some i =>
            s.enter p 0x0F 0 epc
              (w32 (s.rfld (pgUnit p) (0x200 + 4 * i) 0 14 * 2 ^ 16 + s.rfld (pgUnit p) (0x200 + 4 * i) 24 4 * 256 + i))
              0
          | none => s

/-- A watchpoint match makes DEBUG pending, the lowest match kept (R378, R379). -/
def State.wpHit (s : State) (p n : Nat) (a : Word) : State :=
  if (s.u p).dbg.wp.isSome then s else s.onU p fun x => x.setD fun d => { d with wp := some (n, a) }

/-- The watchpoints of a unit that match an access of kind bit `kb` at `a` with value `v` (R378); none while MODE = M
(R373). -/
def State.wpMatch (s : State) (p kb : Nat) (a : Word) (v : Option Word) : Option Nat :=
  (List.range 4).find? fun n =>
    let ctl := s.reg (pgUnit p) (0x570 + 32 * n)
    bit ctl 31 && bit ctl kb
      && ((decide ((s.u p).mode = 0) && bit ctl 24) || (decide ((s.u p).mode = 1) && bit ctl 25))
      && decide ((a ^^^ s.reg (pgUnit p) (0x560 + 32 * n)) &&& s.reg (pgUnit p) (0x564 + 32 * n) = 0)
      && (match v with
          | none => true
          | some w =>
            !bit ctl 30
              || decide ((w ^^^ s.reg (pgUnit p) (0x568 + 32 * n)) &&& s.reg (pgUnit p) (0x56C + 32 * n) = 0))

/-- An access compared with the watchpoints. -/
def State.watch (s : State) (p kb : Nat) (a : Word) (v : Option Word) : State :=
  match s.wpMatch p kb a v with
  | some n => s.wpHit p n a
  | none => s

end Sys2Proof.Machine
end

