-- ==== Sys2Proof/Machine/Arbiter.lean ====
section
/-! DEFINITION. The arbiters of the bank ports, the region memory ports and the fabric uplinks: requests, grants, rank
orders and conflict counters (R258, R265 to R273). -/

namespace Sys2Proof.Machine

/-! ### Grants (R266 to R270) -/

/-- Master `m` is the home unit of the bank whose port A the key names (R266). -/
def isHome (key m : Nat) : Bool := decide (key < 256 ∧ key % 2 = 0 ∧ m = key / 2 % 8)

/-- A conflict cycle of master `m` at bank `b` (R269). DESIGN CHOICE; log entry 43. -/
def State.conflict (s : State) (c b m : Nat) : State :=
  if m < 20 then s.addSat (pgBanks c) (0x400 + 80 * b + 4 * m) 0 32 1 else s

/-- An atomic of another master is between its read and its write at the storage word of key `k` (R268). -/
def State.amoHolds (s : State) (key m k : Nat) : Bool :=
  match (s.ab (if key < 256 then key / 2 * 2 else key)).amo with
  | some (w, h, t) => decide (w = k / 8 ∧ h ≠ m ∧ s.tim.cyc < t)
  | none => false

/-- The resource serves master `m` in this cycle: it is free or held by `m`, and the home unit of its bank has not taken the
cycle, or `m` is the home unit; the march-test engine is exempt in a chunk it has borrowed (R266, R269). -/
def State.portFree (s : State) (key m : Nat) : Bool :=
  isHome key m ||
    ((decide (m = 19 ∧ (s.ab key).holder.isSome = true)
        || decide ((s.ab (if key < 256 then key / 2 * 2 else key)).home ≤ s.tim.cyc)) &&
      match (s.ab key).holder with
      | some h => decide (h.1 = m)
      | none => true)

/-- Key `k` lies in chunk `ch` of bank `b` of its cluster. -/
def inChunk (k b ch : Nat) : Bool := decide (k % 0x80000 / 0x10000 = b ∧ k % 0x10000 / 512 = ch)

/-- The storage word of key `k` of cluster `c` lies in the chunk that the march-test engine has borrowed, and with it port B
(R286). -/
def State.borrowed (s : State) (c k : Nat) : Bool :=
  match (s.c c).mt.lent with
  | some (b, ch, _) => inChunk k b ch && (s.ab (arbB c b)).holder.any fun h => decide (h.1 = 19)
  | none => false

/-- Port A does not serve the storage word of key `k`: its chunk is borrowed, or a yield has not returned it yet. -/
def State.chunkHolds (s : State) (key k : Nat) : Bool :=
  let c := key / 16
  decide (key < 256 ∧ key % 2 = 0) &&
    (s.borrowed c k || (decide (s.tim.cyc < (s.c c).mt.back) && inChunk k (s.c c).mt.bank (s.c c).mt.chunk))

/-- A request of master `m` for the storage word of key `k` is served in this cycle: no atomic and no borrowed chunk holds
the word. -/
def State.grants (s : State) (key m k : Nat) : Bool :=
  !s.amoHolds key m k && !s.chunkHolds key k && s.portFree key m

/-- An access to a word of a borrowed chunk: the engine yields. It abandons the pass and keeps port B for the 40 cycles in
which the chunk is restored and returned; the chunk is to be retried (R286). DESIGN CHOICE; log entry 71. -/
def State.yieldChunk (s : State) (c k : Nat) : State :=
  match (s.c c).mt.lent with
  | some (b, ch, n) =>
    if s.borrowed c k then
      ((s.onC c fun x => { x with mt := { x.mt with
          bank := b, chunk := ch, yields := n + 1, retry := true, lent := none, back := s.tim.cyc + 40 } }).onAb
        (arbB c b) fun a => { a with holder := some (19, 40) }).addSat (pgMarch c) 0x044 0 16 1
    else s
  | none => s

/-- An access of master `m` to the storage word of key `k` of bank `b` waits: a conflict cycle, and a borrowed chunk is
called back. -/
def State.bankWait (s : State) (c b m k : Nat) : State := (s.yieldChunk c k).conflict c b m

/-- The home unit takes the cycle of another unit that holds port A: that unit keeps its grant and goes on a cycle later, an
atomic between its read and its write (R266). -/
def State.stallA (s : State) (key : Nat) : State :=
  match (s.ab key).holder with
  | some (m, n) =>
    (s.onAb key fun a =>
      { a with holder := some (m, n + 1),
               amo := a.amo.map fun q => if q.2.1 = m ∧ s.tim.cyc < q.2.2 then (q.1, m, q.2.2 + 1) else q }).conflict
      (key / 16) (key / 2 % 8) m
  | none => s

/-- The home unit takes a cycle of its bank: a burst on port B, but for the march-test engine's, stalls for a beat (R266,
R269). -/
def State.stallB (s : State) (key : Nat) : State :=
  match (s.ab (key + 1)).holder with
  | some (m, n) =>
    if m = 19 then s
    else (s.onAb (key + 1) fun a => { a with holder := some (m, n + 1) }).conflict (key / 16) (key / 2 % 8) m
  | none => s

/-- A beat of the home unit at its bank: beats of one command follow each other. -/
def State.homeTake (s : State) (key : Nat) : State :=
  ((s.onAb key fun a => { a with home := max s.tim.cyc a.home + 1 }).stallA key).stallB key

/-- Master `m` is granted the resource for `n` cycles, behind those it has. -/
def State.take (s : State) (key m n : Nat) : State :=
  if isHome key m then each (List.range n) (fun _ s => s.homeTake key) s
  else s.onAb key fun a => { a with holder := some (m, n + (a.holder.map Prod.snd).getD 0) }

/-- The beats of a request, each by its resource and its master's number there: every resource is granted for its beats. -/
def State.takeAll (s : State) (l : List (Nat × Nat)) : State :=
  each l.eraseDups (fun q t => t.take q.1 q.2 (l.count q)) s

/-- Master `m` drops its request (R270, R271). -/
def State.dropReq (s : State) (l : List (Nat × Nat)) : State :=
  each l.eraseDups (fun q t => t.onAb q.1 fun a => a.without q.2) s

/-- An atomic of master `m` takes two cycles at the storage word of key `k` (R268). -/
def State.takeAmo (s : State) (key m k : Nat) : State :=
  (s.take key m 2).onAb key fun a => { a with amo := some (k / 8, m, s.tim.cyc + 2) }

/-- Port A has written the storage word of key `k` in this cycle, which held `old` (R267). -/
def State.wroteA (s : State) (k : Nat) (old : DWord) : State :=
  if k < 0x800000 then s.onAb (k / 0x10000 * 2) fun a => { a with wrote := some (k / 8, s.tim.cyc, old) } else s

/-- What the storage word of key `k` held before the port-A write of this cycle, if there is one. -/
def State.beforeA (s : State) (k : Nat) : Option DWord :=
  if k < 0x800000 then
    match (s.ab (k / 0x10000 * 2)).wrote with
    | some (w, t, old) => if w = k / 8 ∧ t = s.tim.cyc then some old else none
    | none => none
  else none

/-- A port-B write meets a port-A write of the same storage word in the same cycle (R267). -/
def State.meetsA (s : State) (k : Nat) : Bool := (s.beforeA k).isSome

/-! ### The next cycle (R269, R270, R272) -/

/-- Place of master `m` in the rank order of an arbiter: those never served come first, in ascending number, then the
others, the last served lowest. -/
def Arb.place (a : Arb) (m : Nat) : Nat :=
  match a.served.findIdx? (fun i => decide (i = m)) with
  | some i => 64 + i
  | none => m

/-- The holder has used a cycle; at the end of its span it drops its request and moves to the lowest rank. -/
def Arb.pass (a : Arb) : Arb :=
  match a.holder with
  | some (m, n) =>
    if n ≤ 1 then { a with holder := none, served := a.served.filter (fun i => i ≠ m) ++ [m] }
    else { a with holder := some (m, n - 1) }
  | none => a

/-- The scheduled owner requests: the holder is displaced with its progress count, behind those already displaced. -/
def Arb.yieldTo (a : Arb) (o : Nat) : Arb :=
  match a.holder with
  | some (m, n) => if m = o then a else { a with holder := none, disp := a.disp ++ [(m, n)] }
  | none => a

/-- A free resource returns to the master displaced first. -/
def Arb.resume (a : Arb) : Arb :=
  match a.holder, a.disp with
  | none, d :: t => { a with holder := some d, disp := t }
  | _, _ => a

/-- A cycle begins at a resource; `owner` is the scheduled owner while it requests. -/
def Arb.cycle (a : Arb) (owner : Option Nat) : Arb :=
  match owner with
  | some o => a.pass.yieldTo o
  | none => a.pass.resume

end Sys2Proof.Machine
end

