-- ==== Sys2Proof/Machine/UnitDone.lean ====
section
/-! DEFINITION. Completion of instructions: sequential advance with the loop-end step (R100), jumps, and what completes
an instruction whose memory access has its data. -/

namespace Sys2Proof.Machine

/-- The unit after an instruction of `len` bytes completes sequentially: the loop-end step when it began at LE with
LC ≠ 0 and `loopStep` holds (R100), the wrap of R82 otherwise. The instruction's halfwords leave the fetch queue, and
going back to LS empties it. DESIGN CHOICE; log entry 60. -/
def UnitSt.advance (x : UnitSt) (len : Nat) (loopStep : Bool) : UnitSt :=
  let nxt : Word := x.pc + w32 len
  let x := { x with first := false, stat := .run, hwOld := [],
                    hq := x.hq.filter fun h => decide (h.a ≠ x.pc ∧ (len = 2 ∨ h.a ≠ x.pc + 2)) }
  if loopStep && decide (x.pc = x.spr.le) && decide (x.spr.lc ≠ 0) then
    let lc := x.spr.lc - 1
    if lc ≠ 0 then { x with spr := { x.spr with lc := lc }, pc := x.spr.ls, hq := [] }
    else { x with spr := { x.spr with lc := lc }, pc := nxt, wrap := decide (nxt = 0) }
  else { x with pc := nxt, wrap := decide (nxt = 0) }

/-- Sequential completion at a unit. -/
def State.seq (s : State) (p len : Nat) : State := (s.onU p fun x => x.advance len true).stepEnd p

/-- Sequential completion of an instruction whose written loop registers stand (R59). -/
def State.seqNoLoop (s : State) (p len : Nat) : State := (s.onU p fun x => x.advance len false).stepEnd p

/-- A taken jump: the fetch queue is discarded (R83). -/
def State.jump (s : State) (p : Nat) (tgt : Word) : State :=
  (s.onU p fun x => { x with pc := tgt, first := false, stat := .run, hq := [], hwOld := [], wrap := false }).stepEnd p

/-- A loaded value extended from its size (R93). -/
def extend (size : Nat) (signed : Bool) (v : Nat) : Word :=
  match size, signed with
  | 0, true => (BitVec.ofNat 8 v).signExtend 32
  | 0, false => (BitVec.ofNat 8 v).zeroExtend 32
  | 1, true => (BitVec.ofNat 16 v).signExtend 32
  | 1, false => (BitVec.ofNat 16 v).zeroExtend 32
  | _, _ => w32 v

/-- A block instruction goes on with its next step: between two steps the unit stands at a boundary (R308; DESIGN CHOICE, log
entry 61). -/
def State.nextStep (s : State) (p : Nat) : State := s.onU p fun x => { x with hwOld := [] }

/-- Completion of an access with its data (0 for a store). A BCOPY step whose read is done leaves its write as the job
that the unit performs next. -/
def State.complete (s : State) (p : Nat) (j : Job) (data : Nat) : State :=
  let s := s.onU p fun x => { x with stat := .run }
  match j.after with
  | .reg rd signed => (s.onU p fun x => x.setG rd (extend j.size signed data)).seq p j.len
  | .plain => s.seq p j.len
  | .push dsp => (s.onU p fun x => x.setS fun r => { r with dsp := dsp }).seq p j.len
  | .pop rd dsp => (s.onU p fun x => (x.setG rd (w32 data)).setS fun r => { r with dsp := dsp }).seq p j.len
  | .bcopyRead rd rs1 rs2 =>
    s.onU p fun x =>
      { x with stat := .sbwait { j with acc := .store, va := x.gr rd, val := w32 data,
                                        after := .bcopyWrite rd rs1 rs2 } }
  | .bcopyWrite rd rs1 rs2 =>
    let s := s.onU p fun x =>
      ((x.setG rd (x.gr rd + 4)).setG rs1 (x.gr rs1 + 4)).setG rs2 (x.gr rs2 - 1)
    if (s.u p).gr rs2 = 0 then s.seq p j.len else s.nextStep p
  | .bfill rd rs2 =>
    let s := s.onU p fun x => (x.setG rd (x.gr rd + 4)).setG rs2 (x.gr rs2 - 1)
    if (s.u p).gr rs2 = 0 then s.seq p j.len else s.nextStep p
  | .bcrc rd rs1 rs2 =>
    let n := min 4 ((s.u p).gr rs2).toNat
    let s := s.onU p fun x =>
      ((x.setG rd (w32 (crcFold (x.gr rd).toNat ((natLE data 4).take n)))).setG rs1 (x.gr rs1 + 4)).setG rs2
        (x.gr rs2 - w32 n)
    if (s.u p).gr rs2 = 0 then s.seq p j.len else s.nextStep p
  | .micro =>
    s.onU p fun x =>
      { x with micro := x.micro.map fun m =>
          let v := if j.acc = .store then m.mdr else extend j.size false data
          if m.op.isSome then { m with got := some v } else { m with mdr := v, undo := none } }
  | .fetch =>
    let h : Half := BitVec.ofNat 16 data
    s.onU p fun x => { x with hq := (x.hq ++ [({ a := j.va, w := h, cx := s.cxOf p h } : HqE)]).drop (x.hq.length + 1 - 8) }

/-- KIND of the access descriptor (R136). -/
def Acc.kind : Acc → Nat
  | .fetch => 0
  | .load | .peek => 1
  | .store => 2
  | .amoadd | .amoswp => 3

/-- The fault code of an access: FETCH_FAULT, LOAD_FAULT or STORE_FAULT (R94, R97). -/
def Acc.fault : Acc → Nat
  | .fetch => 0x05
  | .load | .peek => 0x06
  | .store | .amoadd | .amoswp => 0x07

/-- The access descriptor of R136. -/
def Job.descr (j : Job) (sub level : Nat) : Word :=
  w32 (level * 2 ^ 13 + b2n j.mc * 2 ^ 12 + j.acc.kind * 2 ^ 10 + j.size * 2 ^ 8 + sub)

/-- A cause of a microcode memory operation beside which later microwords have run: its own microword and those after it have
had no effect on the registers of the unit (R125). DEDUCED; log entry 64. -/
def UnitSt.undone (x : UnitSt) : UnitSt :=
  match x.micro.bind Micro.undo with
  | some v => { x with g := v.g, spr := v.spr, prods := v.prods }
  | none => x

/-- A cause of an access with the access descriptor in INFO and the address in BADADDR. -/
def State.accFault (s : State) (p : Nat) (j : Job) (code sub level : Nat) : State :=
  (s.onU p fun x => { x.undone with stat := .run }).raise p code sub (s.u p).pc (j.descr sub level) j.va

/-- ECC_UNCORR of an access: subcode FETCH with INFO as R82 states, or DATA with the instruction. BADADDR is the address
accessed, also where it is not that of the storage word in error (R94, R135). DESIGN CHOICE; log entry 58. -/
def State.eccFault (s : State) (p : Nat) (j : Job) : State :=
  (s.onU p fun x => { x.undone with stat := .run }).raise p 0x10 (if j.acc = .fetch then 1 else 2) (s.u p).pc j.ins j.va

end Sys2Proof.Machine
end

