-- ==== Sys2Proof/Machine/HostWin.lean ====
section
/-! DEFINITION. The host window: block registers, TLB, walks, checks, the store buffer and the host master port
(R95, R306 to R318, R404 to R406). -/

namespace Sys2Proof.Machine

/-! ### Host attribute map (R315) -/

/-- The range of entry `n` of the host attribute map covers an address. -/
def State.hamCovers (s : State) (n hpa : Nat) : Bool :=
  let b := s.rfld 0x008 (0x104 + 16 * n) 0 16 * 2 ^ 32 + s.rfld 0x008 (0x100 + 16 * n) 12 20 * 2 ^ 12
  let e := s.rfld 0x008 (0x10C + 16 * n) 0 16 * 2 ^ 32 + s.rfld 0x008 (0x108 + 16 * n) 12 20 * 2 ^ 12 + 0xFFF
  s.rbit 0x008 (0x100 + 16 * n) 0 && decide (b ≤ hpa ∧ hpa ≤ e)

/-- The address lies in a device range: the lowest enabled entry that covers it has DEV = 1. -/
def State.hamDev (s : State) (hpa : Nat) : Bool :=
  match (List.range 16).find? (fun n => s.hamCovers n hpa) with
  | some n => s.rbit 0x008 (0x100 + 16 * n) 1
  | none => false

/-! ### Host master port (R404, R405) -/

/-- A request presented, behind those that the integrator has not yet taken: it waits for its response. -/
def State.hostReq (s : State) (r : HReq) (q : HRq) : State :=
  { s with hreqs := s.hreqs ++ [r], hrq := s.hrq ++ [q] }

/-- The host port runs. -/
def State.hostUp (s : State) : Bool := s.awake 245 && s.awake 244

/-- The request fields of an access of `n` bytes at `hpa` (R404, R405). -/
def hrqOf (wr : Bool) (hpa size id htype : Nat) (dev : Bool) (mode : Nat) (data : Nat) : HRq :=
  { wr := wr, addr := BitVec.ofNat 48 hpa, size := BitVec.ofNat 2 size, id := BitVec.ofNat 8 id,
    htype := BitVec.ofNat 4 htype, dev := dev, priv := BitVec.ofNat 2 mode,
    data := if wr then BitVec.ofNat 256 (data % 2 ^ (8 * 2 ^ size) * 2 ^ (8 * (hpa % 32))) else 0,
    be := BitVec.ofNat 32 ((2 ^ 2 ^ size - 1) * 2 ^ (hpa % 32)) }

/-- A host read of unit `p`. -/
def State.hostRead (s : State) (p hpa size htype : Nat) (dev : Bool) (kind : HKind) : State :=
  s.hostReq { id := p, wr := false, addr := hpa, size := size, kind := kind, timedOut := false, dead := false }
    (hrqOf false hpa size p htype dev (s.u p).mode 0)

/-! ### Translation (R306 to R311) -/

/-- A host window register of a unit as its translations see it: one written in the course of an instruction keeps its
earlier value until the next instruction boundary (R308). -/
def State.hwReg (s : State) (p off : Nat) : Word :=
  match (s.u p).hwOld.find? (fun e => decide (e.1 = off)) with
  | some e => e.2
  | none => s.reg (pgUnit p) off

/-- The unit is inside an instruction: it waits, runs microcode, or has fetched the first halfword of its next instruction
from the host window. Between two steps of a block instruction it stands at a boundary (DESIGN CHOICE; log entry 61). -/
def UnitSt.inside (x : UnitSt) : Bool :=
  (decide (x.stat ≠ .run) && decide (x.stat ≠ .wfe)) || x.micro.isSome
    || (bit x.pc 31 && x.hq.any fun h => decide (h.a = x.pc))

/-- A host window register is about to be written (R308). -/
def State.hwSave (s : State) (p off : Nat) : State :=
  if (s.u p).inside && !((s.u p).hwOld.any fun e => decide (e.1 = off)) then
    let v := s.reg (pgUnit p) off
    s.onU p fun x => { x with hwOld := x.hwOld ++ [(off, v)] }
  else s

/-- The translation by block register `n` when it covers the address (R308). -/
def State.hwb (s : State) (p : Nat) (a : Word) (n : Nat) : Option Tr :=
  let base := s.hwReg p (0x400 + 16 * n)
  let tl := s.hwReg p (0x404 + 16 * n)
  let th := s.hwReg p (0x408 + 16 * n)
  let at' := s.hwReg p (0x40C + 16 * n)
  let sz := 16 + fld base 0 4
  if bit at' 31 && decide (a.toNat / 2 ^ sz = fld base 16 16 * 2 ^ 16 / 2 ^ sz) then
    some { hpa := (fld th 0 16 * 2 ^ 32 + fld tl 16 16 * 2 ^ 16) / 2 ^ sz * 2 ^ sz + a.toNat % 2 ^ sz,
           htype := fld at' 8 4, dev := bit at' 7, u := bit at' 4, x := bit at' 3, w := bit at' 2, r := bit at' 1,
           tlb := none }
  else none

/-- The translation by a second-level entry (R310). -/
def trOfPte (a : Word) (pte : BitVec 48) : Tr :=
  { hpa := fld pte 12 36 * 2 ^ 12 + a.toNat % 2 ^ 12, htype := fld pte 8 4, dev := bit pte 7, u := bit pte 4,
    x := bit pte 3, w := bit pte 2, r := bit pte 1, tlb := some (bit pte 0, bit pte 5, bit pte 6) }

/-- The entry of TLBLKn. -/
def State.lockedPte (s : State) (p n : Nat) : BitVec 48 :=
  BitVec.ofNat 48 (fld (s.hwReg p (0x4C8 + 16 * n)) 0 16 * 2 ^ 32 + (s.hwReg p (0x4C4 + 16 * n)).toNat)

/-- The translation by the first source that covers the address: HWB, TLBLK, unlocked TLB (R306). -/
def State.translate (s : State) (p : Nat) (a : Word) : Option Tr :=
  match (List.range 8).findSome? (fun n => s.hwb p a n) with
  | some t => some t
  | none =>
    match (List.range 4).find? (fun n =>
        bit (s.hwReg p (0x4C0 + 16 * n)) 0 && decide (fld (s.hwReg p (0x4C0 + 16 * n)) 12 20 = fld a 12 20)) with
    | some n => some (trOfPte a (s.lockedPte p n))
    | none =>
      match (s.u p).tlb.find? (fun e => decide (e.2.vpn.toNat = fld a 12 20)) with
      | some e => some (trOfPte a e.2.pte)
      | none => none

/-- Rows 10 to 13 of R311: the code and subcode of the first check that fails. -/
def trCheck (t : Tr) (acc : Acc) (mode : Nat) : Option (Nat × Nat) :=
  let need := match acc with
    | .fetch => t.x
    | .load | .peek => t.r
    | _ => t.w
  if mode = 0 && !t.u then some (acc.fault, 0x12)
  else
    match t.tlb with
    | none => if need then none else some (acc.fault, 0x11)
    | some (v, a, d) =>
      if !v then some (acc.fault, 0x10)
      else if !need then some (acc.fault, 0x11)
      else if !a then some (0x09, 1)
      else if acc = .store && !d then some (0x09, 2)
      else none

/-- Number of unlocked entries: 32 less the locked ones (R312). -/
def State.tlbRoom (s : State) (p : Nat) : Nat :=
  Config.tlbEntries - (below 4 fun n => s.rbit (pgUnit p) (0x4C0 + 16 * n) 0).length

/-- The unlocked TLB without the entries that `f` names. -/
def UnitSt.inval (x : UnitSt) (f : TlbE → Bool) : UnitSt := { x with tlb := x.tlb.filter fun e => !f e.2 }

/-- A fill: a free unlocked entry, else the one the round-robin pointer names (R312). An invalidation of the same cycle
invalidates it too (R313). -/
def State.fill (s : State) (p : Nat) (e : TlbE) : State :=
  s.onU p fun x =>
    let room := s.tlbRoom p
    let y := match (List.range room).find? (fun i => decide (¬ i ∈ x.tlb.map Prod.fst)) with
      | some i => { x with tlb := Tab.put i e x.tlb }
      | none => { x with tlb := Tab.put (x.rr % room) e x.tlb, rr := (x.rr + 1) % room }
    if x.inv.any (fun q => decide (q.1 = s.tim.cyc) && q.2.all fun v => decide (v = e.vpn.toNat)) then
      y.inval fun f => decide (f.vpn = e.vpn)
    else y

/-- The start of a walk: rows 1 and 2 of R311, then the first-level read. -/
def State.startWalk (s : State) (p : Nat) (j : Job) : State :=
  let ptl := s.hwReg p 0x480
  if !bit ptl 0 then s.accFault p j j.acc.fault 0x17 0
  else
    let s := s.addCnt (rkey (pgUnit p) 0x498) 1
    let addr := fld (s.hwReg p 0x484) 0 16 * 2 ^ 32 + fld ptl 13 19 * 2 ^ 13 + 8 * fld j.va 21 10
    if s.hamDev addr then s.accFault p j 0x08 2 0
    else if !s.hostUp then s.accFault p j 0x08 1 0
    else (s.hostRead p addr 3 0 false .walk).onU p fun x => { x with stat := .walk j 0 }

/-- A host read of the unit is outstanding. -/
def State.readOut (s : State) (p : Nat) : Bool := s.hreqs.any fun r => decide (r.id = p) && !r.wr

/-- The bytes of an access overlap a buffered store. -/
def overlaps (x : UnitSt) (hpa size : Nat) : Bool :=
  x.stbuf.any fun b => decide (b.hpa < hpa + 2 ^ size ∧ hpa < b.hpa + 2 ^ b.size)

/-- Entries of the store buffer in use: a store holds its entry until the host has answered it, and a failed one until its
record has been reported (R95, R141). DEDUCED; log entry 62. -/
def State.bufUsed (s : State) (p : Nat) : Nat :=
  (s.u p).stbuf.length + (s.u p).lates.length
    + (s.hreqs.filter fun r => decide (r.id = p) && r.wr && !r.timedOut && !r.dead).length

/-- A host window access that has passed its checks: store buffer (R95), device ordering (R317), and the host read. What
has to wait keeps the translation made for it (R308). -/
def State.hostIssue (s : State) (p : Nat) (j : Job) (t : Tr) : State :=
  let x := s.u p
  if j.acc = .store then
    if s.bufUsed p < Config.storeBuffer then
      let b : HStore := { va := j.va, hpa := t.hpa, size := j.size, data := j.val, htype := t.htype, dev := t.dev,
                          mode := x.mode }
      ((s.onU p fun x => { x with stbuf := x.stbuf ++ [b] }).watch p 28 j.va (some j.val)).complete p j 0
    else s.onU p fun x => { x with stat := .hwait j t }
  else if overlaps x t.hpa j.size || (t.dev && (!x.stbuf.isEmpty || s.readOut p)) then
    s.onU p fun x => { x with stat := .hwait j t }
  else if !s.hostUp then s.accFault p j j.acc.fault 0x16 0
  else (s.hostRead p t.hpa j.size t.htype t.dev .read).onU p fun x => { x with stat := .hread j }

/-- A host window access once it is translated: its checks, with the PEEK check of R98. -/
def State.hostGo (s : State) (p : Nat) (j : Job) (t : Tr) : State :=
  match trCheck t j.acc (s.u p).mode with
  | some (code, sub) => s.accFault p j code sub 0
  | none =>
    if j.acc = .peek && s.hamDev t.hpa then s.accFault p j 0x06 0x08 0
    else s.hostIssue p j { t with dev := t.dev || s.hamDev t.hpa }

/-- A host window access (R306). -/
def State.hostAccess (s : State) (p : Nat) (j : Job) : State :=
  match s.translate p j.va with
  | some t => s.hostGo p j t
  | none => s.startWalk p j

/-- The data of a walk read: rows 4, 5, 8 and 9 of R311, the second-level read, and the fill (R312). -/
def State.walkData (s : State) (p : Nat) (j : Job) (level : Nat) (d : DWord) : State :=
  if fld d 48 16 ≠ 0 ∨ (level = 0 ∧ fld d 1 11 ≠ 0) then s.accFault p j j.acc.fault 0x13 0
  else if !bit d 0 then s.accFault p j j.acc.fault 0x10 0
  else if level = 0 then
    let addr := fld d 12 36 * 2 ^ 12 + 8 * fld j.va 12 9
    if s.hamDev addr then s.accFault p j 0x08 2 1
    else if !s.hostUp then s.accFault p j 0x08 1 1
    else (s.hostRead p addr 3 0 false .walk).onU p fun x => { x with stat := .walk j 1 }
  else
    let pte := d.truncate 48
    let s := if bit pte 5 then s.fill p { vpn := j.va.extractLsb' 12 20, pte := pte } else s
    s.hostGo p j (trOfPte j.va pte)

/-- A failed buffered store: recorded for LATE_BUS_ERR, or counted in LKSTAT.LATEFAIL of a locked-up unit (R141,
R147). -/
def State.lateErr (s : State) (p : Nat) (va : Word) (code : Nat) : State :=
  if (s.u p).locked then s.addSat (pgUnit p) 0x2A0 0 8 1
  else (s.onU p fun x => { x with lates := x.lates ++ [(va, code)] }).wake p

/-- The oldest buffered store leaves the buffer: its request is presented, or it fails as unanswered while the host
port does not run (R391). -/
def State.drain (s : State) (p : Nat) : State :=
  match (s.u p).stbuf with
  | [] => s
  | b :: t =>
    let s := s.onU p fun x => { x with stbuf := t }
    if s.hostUp then
      s.hostReq { id := p, wr := true, addr := b.hpa, size := b.size, kind := .store b.va, timedOut := false,
                  dead := false }
        (hrqOf true b.hpa b.size p b.htype b.dev b.mode b.data.toNat)
    else s.lateErr p b.va 3

/-- Stores of a unit that have been issued and not answered. -/
def State.storesOut (s : State) (p : Nat) : Bool :=
  s.hreqs.any fun r => decide (r.id = p) && r.wr && !r.timedOut && !r.dead

/-- Invalidation of the page `v`, or of every unlocked entry, in this cycle (R111, R313). -/
def State.invTlb (s : State) (p : Nat) (v : Option Nat) : State :=
  s.onU p fun x =>
    { x.inval (fun e => v.all fun n => decide (e.vpn.toNat = n)) with
      inv := (x.inv.filter fun q => decide (q.1 = s.tim.cyc)) ++ [(s.tim.cyc, v)] }

/-- Invalidation of the page of an address, or of every unlocked entry (R111, R313). -/
def State.invPage (s : State) (p : Nat) (a : Word) : State := if bit a 31 then s.invTlb p (some (fld a 12 20)) else s
def State.invAll (s : State) (p : Nat) : State := s.invTlb p none

/-- TLBSTAT (R307). -/
def State.tlbStat (s : State) (p : Nat) : Word :=
  let lk := (below 4 fun n => s.rbit (pgUnit p) (0x4C0 + 16 * n) 0).length
  w32 (((s.u p).tlb.length + lk) * 2 ^ 16 + lk)

end Sys2Proof.Machine
end

