-- ==== Sys2Proof/Machine/Time.lean ====
section
/-! DEFINITION. The time base (R243 to R249), time pulses (R251), the Contact Sheet (R259 to R262) and the package time
master (R38). -/

namespace Sys2Proof.Machine

/-! ### Straps and the package time master (R31 to R38) -/

def State.die (s : State) : Nat := fld s.saf.straps 7 2
def State.pkgMax (s : State) : Nat := fld s.saf.straps 4 2

/-- A parity group holds an odd number of ones, or STRAP_DIE exceeds STRAP_PKG[1:0] (R33). -/
def strapFault (t : Straps) : Bool :=
  decide ((weight (fld t 7 2) + weight (fld t 9 4) + fld t 0 1) % 2 = 1)
    || decide ((weight (fld t 4 3) + weight (fld t 2 2) + fld t 1 1) % 2 = 1) || decide (fld t 4 2 < fld t 7 2)

/-- Die-link port `j` is used (R34); after a strap fault no link is brought up (R33). -/
def State.linkUsed (s : State) (j : Nat) : Bool :=
  decide (s.die ^^^ (j + 1) ≤ s.pkgMax) && !strapFault s.saf.straps

/-- The package time master: the lowest claiming die, or die 0 when none claims (R38). -/
def State.masterDie (s : State) : Nat :=
  if s.pkgMax = 0 then s.die
  else
    match (List.range 4).find? (fun d =>
        (decide (d = s.die) && bit s.saf.straps 6)
          || (List.range 3).any fun j => decide ((s.l j).hello = some (true, d))) with
    | some d => d
    | none => 0

/-- Number of dies known to claim the master role. -/
def State.claims (s : State) : Nat :=
  (below 4 fun d => (decide (d = s.die) && bit s.saf.straps 6)
    || (List.range 3).any fun j => decide ((s.l j).hello = some (true, d))).length

def State.follower (s : State) : Bool := decide (s.masterDie ≠ s.die)

/-- The port that reaches die `d`. -/
def State.portTo (s : State) (d : Nat) : Nat := (s.die ^^^ d) - 1

/-- A flit presented on port `j` while its link is up. -/
def State.sendFlit (s : State) (j kind : Nat) (f : Flit) : State :=
  if (s.l j).up then s.setL j { s.l j with tx := (s.l j).tx ++ [(kind, f)] } else s

/-- A flit that carries only DATA. -/
def dataFlit (d : Nat) : Flit := ⟨0, 0, 0, 0, 0, BitVec.ofNat 64 d, 0⟩

/-! ### Steps and slews (R245) -/

def pgTime : Nat := 0x004

/-- COARSE cleared at a step and at the end of a slew (R249). -/
def State.slewEnd (s : State) : State := s.setBit pgTime 0x06C 28 false

/-- Units of a ns in which byte times are exact: the 2^-16 ns of the time base's copies, and fifths of them (R222). -/
def nsU : Nat := 327680

/-- A moment kept as a value of the time base, once that has stepped by `d`: the same moment (R245, R253). -/
def shiftedBy (d : Int) (t : Nat) : Nat := ((t : Int) + d).toNat

/-- The moments that an egress keeps, after a step of the time base by `d` units of 2^-16 ns from `was`; the egress
timestamp of a transmission that has not begun moves with it. -/
def Port.stepped (x : Port) (was : Nat) (d : Int) : Port :=
  let tx := fun (y : Tx) =>
    { y with start := shiftedBy (5 * d) y.start, ts := if was * 5 ≤ y.start then shiftedBy (d / 2 ^ 16) y.ts else y.ts }
  { x with tx := x.tx.map tx, held := x.held.map tx, nextTx := x.nextTx.map tx, freeAt := shiftedBy (5 * d) x.freeAt,
           creditT := shiftedBy (d / 2 ^ 16) x.creditT }

/-- The moments that the frame path keeps, after a step of the time base: the ends of gaps and transmissions, the last
updates of credits and buckets, and the last records of R242 stay where they are in real time. DESIGN CHOICE; log entry
34. -/
def Fp.stepped (x : Fp) (was : Nat) (d : Int) : Fp :=
  { x with ports := each x.ports (fun e t => Tab.set Port.reset t e.1 (e.2.stepped was d)) [],
           bucketT := each x.bucketT (fun e t => Tab.set 0 t e.1 (shiftedBy (d / 2 ^ 16) e.2)) [],
           aborts := x.aborts.map fun (e : Nat × Nat) => (e.1, max 1 (shiftedBy (d / 2 ^ 16) e.2)) }

/-- The time base takes a value in units of 2^-24 ns; every copy takes it in the same edge, and the step is logged. -/
def State.stepTo (s : State) (v : Nat) : State :=
  let old := s.T
  let was := s.copy
  let s := { s with tim := { s.tim with base := v % 2 ^ 88, phase := 0, adv := 0, slew := 0 } }
  let s := { s with fp := s.fp.stepped was ((s.copy : Int) - was) }
  ((s.slewEnd).setBit pgTime 0x06C 1 true).logDie 0x30 (w32 old) (w32 (old / 2 ^ 32))

/-- The step value of TBSTEPH:TBSTEPL:TBSTEPF, hidden bits 0. -/
def State.stepVal (s : State) : Nat :=
  ((s.reg pgTime 0x04C).toNat * 2 ^ 32 + (s.reg pgTime 0x048).toNat) * 2 ^ 24 + s.rfld pgTime 0x050 0 16 * 2 ^ 8

/-- TBSLEWREM takes TBSLEW; the model keeps it in half ns. -/
def State.startSlew (s : State) : State :=
  let v : Int := 2 * (s.reg pgTime 0x054).toInt
  let s := { s with tim := { s.tim with slew := v } }
  if v = 0 then s.slewEnd else s

/-- A TBCLK edge: a requested step, a follower's step to its master, or the effective increment and half a ns of
slew. -/
def State.tbEdge (s : State) : State :=
  if s.tim.stepPend then
    let s := { s with tim := { s.tim with stepPend := false } }
    let s := s.stepTo s.stepVal
    if s.tim.slewAfter then ({ s with tim := { s.tim with slewAfter := false } }).startSlew else s
  else if let some off := s.tim.jump then
    let v := ((s.tim.base + s.effInc : Nat) + off * 2 ^ 24) % 2 ^ 88
    (({ s with tim := { s.tim with jump := none } }).stepTo (v.toNat / 2 ^ 8 * 2 ^ 8)).setBit pgTime 0x06C 30 true
  else
    let w := s.tim.slew
    let s := { s with tim := { s.tim with base := (s.tim.base + s.effInc) % 2 ^ 88, phase := 0, adv := 0,
                                          slew := if w = 0 then 0 else if 0 < w then w - 1 else w + 1 } }
    if w = 1 ∨ w = -1 then s.slewEnd else s

/-- The TBCLK edge that ends the current fabric cycle, come with its command: the next idle step counts it and no other
(log entry 20). -/
def State.edgeNow (s : State) : State :=
  let t := s.tbEdge
  { t with tim := { t.tim with edge := true } }

/-- The current fabric cycle is the last one before a TBCLK edge that has not yet come. -/
def State.atEdge (s : State) : Bool := s.awake 263 && !s.lou.low && decide (s.tim.phase = 7) && !s.tim.edge

/-- A write to TBINC, STEP or SLEW on a follower is discarded (R248). -/
def State.followErr (s : State) : State := s.setBit pgTime 0x06C 2 true

/-- A write of TBCTL (R244, R245). -/
def State.tbctl (s : State) (v : Word) : State :=
  if !bit v 31 && !bit v 30 then s
  else if s.follower then s.followErr
  else if bit v 31 then { s with tim := { s.tim with stepPend := true } }
  else if s.tim.stepPend then { s with tim := { s.tim with slewAfter := true } }
  else s.startSlew

/-- A write of TBINC, clamped (R244). -/
def State.tbinc (s : State) (v : Word) : State :=
  if s.follower then s.followErr
  else if v.toNat < 0x07F80000 then (s.setReg pgTime 0x044 0x07F80000).setBit pgTime 0x06C 3 true
  else if 0x08080000 < v.toNat then (s.setReg pgTime 0x044 0x08080000).setBit pgTime 0x06C 3 true
  else s.setReg pgTime 0x044 v

/-- A time flit of the master, corrected by half the round trip: a follower more than 1 µs away steps at the next TBCLK
edge, any other slews (R248, R414). DEDUCED; log entry 48. -/
def State.follow (s : State) (t : Nat) : State :=
  let off : Int := (t : Int) - (s.T : Int)
  let s := { s with tim := { s.tim with free := false, jump := none } }
  if off < -1000 ∨ 1000 < off then { s with tim := { s.tim with jump := some off } }
  else
    let s := { s with tim := { s.tim with slew := 2 * off } }
    let s := if off = 0 then s.slewEnd else s
    s.setBit pgTime 0x06C 30 (decide (-5 ≤ off ∧ off ≤ 5))

/-- A follower loses its master: it runs free without any slew (R248). -/
def State.masterLost (s : State) : State :=
  if s.tim.free then s
  else
    let s := { s with tim := { s.tim with slew := 0, jump := none, free := true } }
    (((s.setBit pgTime 0x06C 30 false).setBit pgTime 0x06C 4 true).flag pgTime 2).logDie 0x33 (w32 s.masterDie) 0

/-! ### Time pulses (R251) -/

/-- T of the start of the next pulse. -/
def State.tpOut (s : State) (j : Nat) : Nat :=
  (s.reg pgTime (0x090 + 32 * j)).toNat * 2 ^ 32 + (s.reg pgTime (0x08C + 32 * j)).toNat

def State.tpWidth (s : State) (j : Nat) : Nat := max 8 (s.rfld pgTime (0x088 + 32 * j) 0 24)

/-- The start of a pulse. -/
def State.tpStart (s : State) (j : Nat) : State :=
  if s.rbit pgTime (0x080 + 32 * j) 31 && decide (Tab.get 0 s.tim.tpOn j = 0) && decide (s.tpOut j ≤ s.T) then
    let late := decide (j ∈ s.tim.tpLate)
    let e := if late ∨ s.tpOut j + s.tpWidth j ≤ s.T then s.T + s.tpWidth j else s.tpOut j + s.tpWidth j
    let s := { s with tim := { s.tim with tpOn := Tab.set 0 s.tim.tpOn j (e + 1),
                                          tpLate := s.tim.tpLate.filter (fun i => i ≠ j) } }
    if late then s.setBit pgTime (0x080 + 32 * j) 27 true else s
  else s

/-- The end of a pulse: TPOUT advances by TPPER, or OUTEN is written 0. -/
def State.tpEnd (s : State) (j : Nat) : State :=
  let e := Tab.get 0 s.tim.tpOn j
  if e ≠ 0 ∧ e ≤ s.T + 1 then
    let s := { s with tim := { s.tim with tpOn := Tab.set 0 s.tim.tpOn j 0 } }
    let per := (s.reg pgTime (0x084 + 32 * j)).toNat
    if per = 0 then s.setBit pgTime (0x080 + 32 * j) 31 false
    else
      let n := s.tpOut j + per
      let s := (s.setReg pgTime (0x08C + 32 * j) (w32 n)).setReg pgTime (0x090 + 32 * j) (w32 (n / 2 ^ 32))
      if n % 2 ^ 64 < s.T then { s with tim := { s.tim with tpLate := j :: s.tim.tpLate } } else s
  else s

/-- Level and output enable of time pulse pad `j`: 1 in the cycles whose T lies in the window of the pulse in progress
(R251). DESIGN CHOICE; log entry 45. -/
def State.tpPad (s : State) (j : Nat) : Bool × Bool :=
  let en := s.rbit pgTime (0x080 + 32 * j) 31 && s.awake 263
  let e := Tab.get 0 s.tim.tpOn j
  (en && decide (e ≠ 0 ∧ s.T + 1 < e ∧ e ≤ s.T + 1 + s.tpWidth j), en)

/-- An edge to `level` on time pulse input `j`. -/
def State.tpCapture (s : State) (j : Nat) (level : Bool) : State :=
  let cfg := s.reg pgTime (0x080 + 32 * j)
  if bit cfg 30 && (level != bit cfg 29) then
    let s := if j ∈ s.tim.tpUnread then s.setBit pgTime (0x080 + 32 * j) 28 true else s
    let s := (s.setReg pgTime (0x094 + 32 * j) (w32 s.T)).flag pgTime j
    { s with tim := { s.tim with tpHi := Tab.set 0 s.tim.tpHi j (w32 (s.T / 2 ^ 32)),
                                 tpUnread := if j ∈ s.tim.tpUnread then s.tim.tpUnread else j :: s.tim.tpUnread } }
  else s

/-- A write of TPCFGj: OUTEN written 1 with TPOUT already behind T makes the pulse late. -/
def State.tpcfg (s : State) (j : Nat) (v : Word) : State :=
  let old := s.rbit pgTime (0x080 + 32 * j) 31
  let s := genWrite .time pgTime (0x080 + 32 * j) v s
  if bit v 31 then
    if !old && decide (s.tpOut j < s.T) then { s with tim := { s.tim with tpLate := j :: s.tim.tpLate } } else s
  else { s with tim := { s.tim with tpOn := Tab.set 0 s.tim.tpOn j 0, tpLate := s.tim.tpLate.filter (fun i => i ≠ j) } }

/-! ### Contact Sheet (R259 to R262) -/

def pgSheet : Nat := 0x005

/-- The low register of a 48-bit counter (R197, R241, R273, R307, R427). -/
def isCounter (k : PK) (off : Nat) : Bool :=
  match k with
  | .fport | .fixer => decide (0x080 ≤ off ∧ off < 0x0C0 ∧ off % 8 = 0)
  | .region => decide (off = 0x240 ∨ off = 0x248)
  | .common => decide (off = 0x230)
  | .unit => decide (off = 0x498)
  | _ => false

/-- Keys of all counters with shadows. DEDUCED; log entry 17. -/
def counterKeys : List Nat :=
  (List.range 16).flatMap (fun i => (List.range 8).map fun n => rkey (pgPort i) (0x080 + 8 * n))
    ++ (List.range 8).map (fun n => rkey 0x025 (0x080 + 8 * n))
    ++ (List.range 4).flatMap (fun r => [rkey (pgRegion r) 0x240, rkey (pgRegion r) 0x248])
    ++ (List.range 16).map (fun c => rkey (pgCommon c) 0x230)
    ++ (List.range 144).map (fun g => rkey (pgUnit g) 0x498)

/-- Region `r` is in reset: its own reset, or a whole-die reset that the Developer's sequence has not left. -/
def State.regHeld (s : State) (r : Nat) : Bool :=
  s.saf.por || s.dev.due || decide (Scope.region (BitVec.ofNat 2 r).toFin ∈ s.pw.held)

/-- The domain of a page with counters runs or is in retention, and its part is not in reset (R260). -/
def State.counterLive (s : State) (p : Nat) : Bool :=
  match kindOf p with
  | some (.fport, i) => decide (s.dom (246 + i) ≤ 2) && !s.saf.por
  | some (.fixer, _) => decide (s.dom 262 ≤ 2) && !s.saf.por
  | some (.region, r) => decide (s.dom (240 + r) ≤ 2) && !s.regHeld r
  | some (.common, c) =>
    decide (s.dom (224 + c) ≤ 2) && !s.regHeld (c / 4) && decide (¬ Scope.cluster (BitVec.ofNat 4 c).toFin ∈ s.pw.held)
  | some (.unit, g) => decide (s.dom g ≤ 2) && decide ((s.u g).stat ≠ .held)
  | _ => false

/-- A snap: every shadow latched, or marked stale (R260). -/
def State.takeSnap (s : State) (taken : Nat) (late : Bool) : State :=
  let gen := s.reg pgSheet 0x04C + 1
  let s := each counterKeys (fun k s =>
    let old := Tab.get (0, 0, false) s.shadow k
    let new := if s.counterLive (k / 1024) then (s.count k, gen.toNat % 256, false) else (old.1, gen.toNat % 256, true)
    { s with shadow := Tab.set (0, 0, false) s.shadow k new }) s
  let s := ((s.setReg pgSheet 0x04C gen).setReg pgSheet 0x050 (w32 taken)).setReg pgSheet 0x054 (w32 (taken / 2 ^ 32))
  let s := s.setBit pgSheet 0x048 31 false
  let s := if late then s.setBit pgSheet 0x048 30 true else s
  s.flag pgSheet 0

/-- The target in CSTIMEH:CSTIMEL, which a write of ARM = 1 takes (R260). -/
def State.snapTarget (s : State) : Nat :=
  (s.reg pgSheet 0x044).toNat * 2 ^ 32 + (s.reg pgSheet 0x040).toNat

/-- A write of CSCTL (R260, R262). -/
def State.csctl (s : State) (v : Word) : State :=
  let s := genWrite .sheet pgSheet 0x048 v s
  if bit v 31 then
    let s : State := { s with tim := { s.tim with snapT := s.snapTarget } }
    let s := if bit v 29 && !s.follower then
        each (below 3 s.linkUsed) (fun j s => s.sendFlit j 8 (dataFlit s.snapTarget)) s
      else s
    if s.snapTarget ≤ s.T then s.takeSnap s.T true else s
  else s

/-- A snap flit arms a die with the master's target; a target less than 1 µs ahead is taken late (R262). -/
def State.snapArm (s : State) (t : Nat) : State :=
  let s := ((s.setReg pgSheet 0x040 (w32 t)).setReg pgSheet 0x044 (w32 (t / 2 ^ 32))).setBit pgSheet 0x048 31 true
  let s := { s with tim := { s.tim with snapT := t % 2 ^ 64 } }
  if t < s.T + 1000 then s.takeSnap s.T true else s

/-- The armed snap whose target has been reached. -/
def State.snapDue (s : State) : State :=
  if s.rbit pgSheet 0x048 31 && decide (s.tim.snapT ≤ s.T) then s.takeSnap s.tim.snapT false else s

/-! ### Register hooks -/

/-- Index of a master's TBNOWL latch (R246). -/
def Master.ix : Master → Nat
  | .unit p => p.val
  | .host => 144
  | .mgmt => 145
  | .loupe => 146

/-- T and its fraction in units of 2^-16 ns. -/
def State.T16 (s : State) : Nat := s.copy % 2 ^ 80

def State.latchT (s : State) (m : Nat) : State :=
  { s with tim := { s.tim with latch := Tab.set 0 s.tim.latch m s.T16 } }

/-- A slew remainder in half ns as whole ns away from zero. -/
def slewNs (h : Int) : Int := if 0 ≤ h then (h + 1) / 2 else -((1 - h) / 2)

/-- A write to the time base page. -/
def timeWrite (off : Nat) (v : Word) (s : State) : State :=
  match off with
  | 0x040 => s.tbctl v
  | 0x044 => s.tbinc v
  | 0x080 => s.tpcfg 0 v
  | 0x0A0 => s.tpcfg 1 v
  | _ => genWrite .time pgTime off v s

/-- A read of the time base page by master `m`; a peek of TPCAPLj counts as a read. DEDUCED; log entry 57. -/
def timeRead (m off : Nat) (peek : Bool) (s : State) : Word × State :=
  match off with
  | 0x040 => (insBit 0 31 s.tim.stepPend, s)
  | 0x058 => (BitVec.ofInt 32 (slewNs s.tim.slew), s)
  | 0x060 => (w32 s.T, s.latchT m)
  | 0x064 => (w32 (Tab.get 0 s.tim.latch m / 2 ^ 48), s)
  | 0x068 => (w32 (Tab.get 0 s.tim.latch m % 2 ^ 16), s)
  | 0x06C => (insBit (insBit (s.reg pgTime 0x06C) 29 (decide (s.tim.slew ≠ 0))) 31 s.follower, s)
  | 0x094 | 0x0B4 =>
    let j := (off - 0x094) / 32
    (s.reg pgTime off,
      ({ s with tim := { s.tim with tpUnread := s.tim.tpUnread.filter (fun i => i ≠ j) } }).setReg pgTime (off + 4)
        (Tab.get 0 s.tim.tpHi j))
  | _ => genRead .time pgTime off peek s

/-- A write to the Contact Sheet page. -/
def sheetWrite (off : Nat) (v : Word) (s : State) : State :=
  if off = 0x048 then s.csctl v else genWrite .sheet pgSheet off v s

/-- A read of the Contact Sheet page (R259, R261); a peek of CSSHLO latches as a read does (DEDUCED; log entry 57). NODE and
DIE of R41 stand in no field of R259, and the shadows carry none (DESIGN CHOICE; log entry 68). -/
def sheetRead (off : Nat) (peek : Bool) (s : State) : Word × State :=
  if off = 0x05C then
    let pg := s.rfld pgSheet 0x058 16 14
    let o := s.rfld pgSheet 0x058 2 10 * 4
    let ok := match kindOf pg with
      | some (k, _) => isCounter k o
      | none => false
    if ok then
      let (v, g, st) := Tab.get (0, 0, false) s.shadow (rkey (s.physPage pg) o)
      (w32 v, s.setReg pgSheet 0x060 (w32 (2 ^ 31 + b2n st * 2 ^ 30 + g * 2 ^ 16 + v / 2 ^ 32)))
    else (0, s.setReg pgSheet 0x060 0)
  else genRead .sheet pgSheet off peek s

end Sys2Proof.Machine
end

