-- ==== Sys2Proof/Machine/Otp.lean ====
section
/-! DEFINITION. The 4,096 OTP bits (R321 to R323), their programming (R332, R402) and the repair map (R288). -/

namespace Sys2Proof.Machine

/-! ### Records of the log (R348, R350) -/

/-- The 8 words of a record. -/
def LogE.words (e : LogE) : List Word :=
  let l := [w32 e.code, e.seq, e.t.extractLsb' 0 32, e.t.extractLsb' 32 32, e.coord, e.d0, e.d1]
  l ++ [crcWords l]

/-- Number of the slow-clock tick of a fabric cycle. -/
def slowOf (cyc : Nat) : Nat := cyc * 32768 / 1000000000

/-- The oldest event of the intake queue is written into the log, over the oldest record when the log is full. The last
WAKE record is remembered with its slow-clock tick (R357). DESIGN CHOICE; log entry 30. -/
def State.logWrite (s : State) : State :=
  match s.saf.intake with
  | [] => s
  | e :: t =>
    let n := s.saf.written
    let s := { s with saf := { s.saf with intake := t, log := Tab.set [] s.saf.log (n % Config.logRecords) e.words,
                                          written := n + 1, flushed := max s.saf.flushed (n + 1 - Config.logRecords),
                                          wakeRec := if e.code = 0x50 then (slowOf e.cyc + 1, n) else s.saf.wakeRec } }
    (if Config.logRecords ≤ n then s.addSat 0x001 0x254 16 16 1 else s).flag 0x001 0

/-- The µs that programming a bit or a byte takes (R382): the log takes sixteen records in it, and so what waits in the
intake queue. DESIGN CHOICE; log entry 30. -/
def State.logPass (s : State) : State := each (s.saf.intake.take 16) (fun _ s => s.logWrite) s

/-! ### Bits and fields -/

/-- The field of `n` bits from bit `lo`. -/
def State.otpFld (s : State) (lo n : Nat) : Nat := s.saf.otp / 2 ^ lo % 2 ^ n

/-- Key slots that are programmed, keys that are revoked, and the counter V (R321 to R323). -/
def State.keyProg (s : State) (i : Nat) : Bool := decide (s.otpFld (384 * i) 384 ≠ 0)
def State.keyRevoked (s : State) (i : Nat) : Bool := s.otpBit (1536 + i) || s.otpBit (1540 + i)
def State.rollV (s : State) : Nat := max (s.otpOnes 1568 128) (s.otpOnes 1696 128)

/-- One bit programmed, with its log record (R332, R349). -/
def State.otpSet (s : State) (i : Nat) : State :=
  (({ s with saf := { s.saf with otp := s.saf.otp ||| 2 ^ i } }).logDie 0x06 (w32 i) 0)

/-- The first bit of a programming: result code, and the state. The supply is sampled before each bit (R402). -/
def State.otpOne (s : State) (b : Nat) (bad : Option Nat) : Nat × State :=
  if !s.saf.vpp then (5, s)
  else if bad = some 0 then (7, s.logDie 0x06 (w32 b) 7)
  else (0, s.otpSet b)

/-- Programming of a list of bits: result code, and the state. Where bit `bad` of the list fails to read back, nothing
further is programmed (R332, R402). -/
def State.otpProg (s : State) : List Nat → Option Nat → Nat × State
  | [], _ => (0, s)
  | b :: l, bad =>
    match s.otpOne b bad with
    | (0, t) => t.logPass.otpProg l (bad.map fun n => n - 1)
    | x => x

/-- Bits to program, with the one that fails. -/
def Prog.bits (l : List Nat) (bad : Option Nat) : Prog := { left := l.map fun i => (i, 1), bad := bad }

/-- What is left after the first item, and after a programming that has ended with `code`. -/
def Prog.next (x : Prog) (code : Nat) : Prog :=
  if code = 0 then { left := x.left.drop 1, bad := if x.bad = some 0 then none else x.bad.map fun n => n - 1 } else Prog.empty

/-- The clear bits to program so that a field of `n` bits from `lo` has `target` ones, lowest first (R322). -/
def State.fillBits (s : State) (lo n target : Nat) : List Nat :=
  ((below n fun i => !s.otpBit (lo + i)).take (target - s.otpOnes lo n)).map fun i => lo + i

/-- Bits of a counter raised to `v`: copy 0 first, then copy 1 (R322). -/
def State.rollBits (s : State) (v : Nat) : List Nat := s.fillBits 1568 128 v ++ s.fillBits 1696 128 v

/-- Entry `i` of the repair map. -/
def State.repairEntry (s : State) (i : Nat) : Nat := s.otpFld (1824 + 24 * i) 24

/-- A 24-bit repair entry recorded in the next free entry, or REPAIR_OTP_FULL (R288). -/
def State.recordRepair (s : State) (e : Nat) : State :=
  match (List.range 64).find? fun i => decide (s.repairEntry i = 0) with
  | some i => each ((below 24 fun j => e.testBit j).map fun j => 1824 + 24 * i + j) (fun b s => (s.otpSet b).logPass) s
  | none => s.logDie 0x24 (w32 (e / 2 ^ 16 % 8 * 2 ^ 16 + e % 2 ^ 11)) 0

/-- A new repair of bank number `bn` (8c + b): recorded at once while the programming supply is present (R288). -/
def State.newRepair (s : State) (bn row spare : Nat) : State :=
  let e := 2 ^ 23 + bn * 2 ^ 16 + spare * 2 ^ 11 + row
  if s.saf.vpp then s.recordRepair e
  else { s with saf := { s.saf with repairs := s.saf.repairs ++ [e] } }

/-- OTP_VPP_OK rises: repairs made meanwhile are recorded (R288). -/
def State.vppRise (s : State) : State :=
  let l := s.saf.repairs
  each l (fun e s => s.recordRepair e) { s with saf := { s.saf with vpp := true, repairs := [] } }

end Sys2Proof.Machine
end

