-- ==== Sys2Proof/Machine/Bank.lean ====
section
/-! DEFINITION. Banks, the Shutter page, the march-test engine and clearing (R273, R276 to R289). -/

namespace Sys2Proof.Machine

/-! ### Clearing and waits (R285, R289) -/

/-- `n` bytes from key `k` cleared to 0 with check bits 0; `k` and `n` are multiples of 8. -/
def State.zero (s : State) (k n : Nat) : State :=
  { s with mem := Tab.drop (fun i => decide (k ≤ i ∧ i < k + n)) s.mem,
           synd := Tab.drop (fun i => decide (k / 8 ≤ i ∧ i < (k + n) / 8)) s.synd }

/-- Accesses to bank `b` wait: it is being cleared, or a destructive test runs on it. -/
def State.bankBusy (s : State) (c b : Nat) : Bool :=
  let x := s.c c
  decide (b ∈ x.clearing) || (x.mt.busy && x.mt.destr && x.mt.banks.testBit b)

/-- The segment group of region memory at an offset is not yet clear. -/
def State.segBusy (s : State) (r off : Nat) : Bool := decide (4 * r + off / 0x80000 ∈ s.rclear)

/-- BKSTATb as it reads. -/
def State.bkstat (s : State) (c b : Nat) : Word :=
  insBit (s.reg (pgBanks c) (0x040 + 4 * b)) 29 (decide (b ∈ (s.c c).clearing))

/-- Bank `b` becomes clear; banks are cleared in ascending order (R289), but by the Darkslide in parallel (R369). -/
def State.bankClear (s : State) (c b : Nat) : State :=
  let l := (s.c c).clearing
  if l.head? = some b ∨ (s.lou.darkBanks ∧ b ∈ l) then
    (s.zero (bankKey c (0x10000 * b)) 0x10000).onC c fun y => { y with clearing := y.clearing.filter fun x => x ≠ b }
  else s

/-- Segment group `g` of region memory becomes clear (R289). -/
def State.segClear (s : State) (r g : Nat) : State :=
  if 4 * r + g ∈ s.rclear then
    let s := s.zero (regKey r (0x80000 * g)) 0x80000
    { s with rclear := s.rclear.filter fun i => i ≠ 4 * r + g }
  else s

/-! ### Collisions (R267) -/

/-- A port-B write is discarded because a port-A write of the same storage word in the same cycle leaves another word
(R267). -/
def State.collide (s : State) (k : Nat) : State :=
  let c := k / 0x80000
  let b := k % 0x80000 / 0x10000
  ((s.addSat (pgBanks c) (0x060 + 4 * b) 0 32 1).setBit (pgBanks c) (0x040 + 4 * b) 31 true).flag (pgBanks c) 1

/-- A port-B write of the `w` bytes `v` at key `k` that meets a port-A write, whose word memory holds: both merge into the
word that stood there before. The word is stored once when the resulting words are equal, and B's is discarded otherwise
(R267). -/
def State.meetWrite (s : State) (k w v : Nat) : State :=
  let old := (s.beforeA k).getD (s.word8 k)
  if ins old (8 * (k % 8)) (8 * w) (v % 2 ^ (8 * w)) = s.word8 k then s else s.collide k

/-! ### March test (R282 to R287) -/

def State.onMt (s : State) (c : Nat) (f : March → March) : State := s.onC c fun x => { x with mt := f x.mt }

/-- A failed row of bank `b`: recorded, logged, and mapped to a free spare row when there is one (R287). -/
def State.rowFail (s : State) (c b row elem : Nat) : State :=
  let pg := pgMarch c
  let s := s.logDie 0x23 (w32 (b * 2 ^ 16 + elem * 2 ^ 12 + row)) 0
  let s := (s.setReg pg 0x048 (w32 (2 ^ 31 + b * 2 ^ 24 + elem * 2 ^ 20 + row))).flag pg 1
  let s := s.setBit pg 0x044 30 true
  let used := s.rfld (pgBanks c) (0x040 + 4 * b) 24 4
  match (List.range 4).find? fun i => !used.testBit i with
  | some i =>
    let s := s.setBit (pgBanks c) (0x040 + 4 * b) (24 + i) true
    let s := s.onC c fun x => { x with rows := x.rows.filter (fun e => ¬ (e.1 = b ∧ e.2.1 = row)) ++ [(b, row, i)] }
    (s.addSat pg 0x04C 0 16 1).newRepair (8 * c + b) row i
  | none => (s.setBit (pgBanks c) (0x040 + 4 * b) 28 true).setBit pg 0x044 29 true

/-- The end of a requested test (R285). -/
def State.mtDone (s : State) (c : Nat) : State := (s.onMt c fun _ => March.reset).flag (pgMarch c) 0

/-- The selected banks, zeroed. -/
def State.zeroBanks (s : State) (c banks : Nat) : State :=
  each (below 8 fun b => banks.testBit b) (fun b s => s.zero (bankKey c (0x10000 * b)) 0x10000) s

/-- The lowest selected bank at or above `b`. -/
def nextBank (banks b : Nat) : Option Nat := (List.range 8).find? fun i => banks.testBit i && decide (b ≤ i)

/-- A write of MTCTL (R284, R285). -/
def State.mtctl (s : State) (c : Nat) (v : Word) : State :=
  let s := genWrite .march (pgMarch c) 0x040 v s
  let s :=
    if bit v 31 then
      if (s.c c).mt.busy then s.setBit (pgMarch c) 0x044 27 true
      else
        match nextBank (fld v 0 8) 0 with
        | none => s.flag (pgMarch c) 0
        | some b =>
          s.onMt c fun _ => { March.reset with busy := true, destr := bit v 29, banks := fld v 0 8, bank := b }
    else s
  if bit v 30 && (s.c c).mt.busy then
    let x := (s.c c).mt
    (if x.destr then s.zeroBanks c x.banks else s).mtDone c
  else s

/-- The engine goes on to the chunk after the current one; past the last chunk of the last bank the test waits for its
end. -/
def March.next (x : March) : March :=
  let x := { x with yields := 0, retry := false }
  if x.chunk < 127 then { x with chunk := x.chunk + 1 }
  else
    match nextBank x.banks (x.bank + 1) with
    | some b => { x with bank := b, chunk := 0 }
    | none => { x with chunk := 128 }

/-- Storage word keys of the chunk under test. -/
def chunkKeys (c : Nat) (x : March) : List Nat :=
  (List.range 64).map fun i => bankKey c (0x10000 * x.bank + 512 * x.chunk + 8 * i)

/-- The copy and the restore of the chunk under test: corrected words are written back re-encoded, uncorrectable ones
raw, and both are counted (R286). -/
def State.chunkCopy (s : State) (c : Nat) : State :=
  each (chunkKeys c (s.c c).mt) (fun k s =>
    let e := synClass (s.syn k)
    if e = .ok then s
    else if e = .corr then (s.countEcc k e).setWord8 k (s.word8 k)
    else s.countEcc k e) s

/-- The failed rows of the chunk under test, by row and element whose read failed (R287). -/
def State.chunkFails (s : State) (c : Nat) (bad : List (Nat × Nat)) : State :=
  let x := (s.c c).mt
  each bad (fun (row, elem) s => s.rowFail c x.bank (16 * x.chunk + row % 16) elem) s

/-- The engine requests port B of the bank under test and waits: a conflict cycle (R269). -/
def State.chunkWait (s : State) (c : Nat) : State :=
  (s.onMt c fun x => { x with want := true }).conflict c (s.c c).mt.bank 19

/-- The engine's next chunk pass has port B: `n` cycles of it. -/
def State.chunkTake (s : State) (c n : Nat) : State :=
  (s.onMt c fun x => { x with want := false }).take (arbB c (s.c c).mt.bank) 19 n

/-- One chunk pass: copy, test and restore of the 64 storage words, or as much of it as a yield leaves (R286). A row that
failed is tested again with its chunk once it is mapped to a spare row, so the next pass is of the same chunk (R287).
DEDUCED; log entry 50. -/
def State.chunkPass (s : State) (c : Nat) (bad : List (Nat × Nat)) (yielded : Bool) : State :=
  let x := (s.c c).mt
  if x.busy && !x.destr && !x.retry && decide (x.chunk < 128) then
    if !s.portFree (arbB c x.bank) 19 then s.chunkWait c
    else
      let used := fun (s : State) => s.rfld (pgBanks c) (0x040 + 4 * x.bank) 24 4
      let t := ((s.chunkTake c (if yielded then 40 else 192)).chunkCopy c).chunkFails c bad
      let t := t.onMt c fun y => { y with lent := if yielded then none else some (x.bank, x.chunk, x.yields) }
      if yielded then
        (t.onMt c fun x => { x with yields := x.yields + 1, retry := true }).addSat (pgMarch c) 0x044 0 16 1
      else if used t ≠ used s then t.onMt c fun x => { x with yields := 0 }
      else t.onMt c March.next
  else s

/-- The retry of a chunk after a yield, or its skip after 16 consecutive yields (R286). -/
def State.chunkRetry (s : State) (c : Nat) : State :=
  let x := (s.c c).mt
  if x.busy && x.retry then
    if 16 ≤ x.yields then
      ((s.onMt c March.next).setBit (pgMarch c) 0x044 28 true).addSat (pgMarch c) 0x04C 16 16 1
    else s.onMt c fun x => { x with retry := false }
  else s

/-- The repair map loaded into the banks, once at a power-on reset (R283, R288). -/
def State.loadRepairs (s : State) : State :=
  if s.dev.mapped then s
  else
    each (List.range 64) (fun i s =>
      let e := s.repairEntry i
      if e.testBit 23 && decide (e / 2 ^ 16 % 2 ^ 7 < 128) then
        let c := e / 2 ^ 19 % 16
        let b := e / 2 ^ 16 % 8
        let sp := e / 2 ^ 11 % 4
        (s.setBit (pgBanks c) (0x040 + 4 * b) (24 + sp) true).onC c fun x =>
          { x with rows := x.rows.filter (fun r => ¬ (r.1 = b ∧ r.2.1 = e % 2 ^ 11)) ++ [(b, e % 2 ^ 11, sp)] }
      else s) { s with dev := { s.dev with mapped := true } }

/-- The end of a test: a destructive one leaves the selected banks 0 (R282, R285); a preserving one has passed its last
chunk; the test at power-on, which the repair map is loaded before, reports its failed rows before the Developer's
sequence (R283). A triple of `bad` is bank, row and element. DEDUCED; log entry 50. -/
def State.marchEnd (s : State) (c : Nat) (bad : List (Nat × Nat × Nat)) : State :=
  let x := (s.c c).mt
  if x.busy && x.destr then
    let s := each bad (fun (b, row, elem) s => if x.banks.testBit b then s.rowFail c b row elem else s) s
    (s.zeroBanks c x.banks).mtDone c
  else if x.busy && decide (x.chunk = 128) then s.mtDone c
  else if s.dev.due && s.dev.pon then each bad (fun (b, row, elem) s => s.rowFail c b row elem) s.loadRepairs
  else s

/-- MTSTAT as it reads. -/
def State.mtstat (s : State) (c : Nat) : Word :=
  let x := (s.c c).mt
  s.reg (pgMarch c) 0x044 ||| w32 (b2n x.busy * 2 ^ 31 + x.bank * 2 ^ 24 + min x.chunk 127 * 2 ^ 16)

/-! ### Shutter page (R276 to R281) -/

/-- The logical unit of cluster `c` that a master is, 0 to 7. -/
def State.lockUnit (s : State) (c : Nat) (m : Master) : Option Nat :=
  match m with
  | .unit p => if cOf p = c ∧ s.logU p < 8 then some (s.logU p) else none
  | _ => none

/-- The holder of lock `n` is in monitor mode (R280). -/
def State.him (s : State) (c n : Nat) : Bool :=
  match ((s.c c).lk n).holder with
  | some u => decide ((s.u (s.physU c u)).mode = 3)
  | none => false

/-- A write to the Shutter page: the state, and INFO of a LOCK_ORDER that the store raises (R135, R277). -/
def shutterWrite (m : Master) (c off : Nat) (v : Word) (s : State) : State × Option Word :=
  let p := pgShutter c
  let n := fld v 0 6
  match off with
  | 0x040 =>
    (match s.lockUnit c m with
     | some u =>
       (match s.acquire c u n false with
        | (_, some h) => (s, some (w32 (h * 256 + n)))
        | (t, none) => (t.setReg p off (w32 n), none))
     | none => (s, none))
  | 0x044 =>
    (match s.lockUnit c m with
     | some u => ((s.release c u n).setReg p off (w32 n), none)
     | none => (s, none))
  | 0x048 =>
    (match s.lockUnit c m with
     | some u => (if bit v 0 then s.cancel c u else s, none)
     | none => (s, none))
  | 0x04C =>
    (match s.lockUnit c m with
     | some u =>
       (s.onC c fun x =>
         x.setMy u { x.shmy u with refused := (x.shmy u).refused && !bit v 27,
                                   relerr := (x.shmy u).relerr && !bit v 26 }, none)
     | none => (s, none))
  | 0x058 =>
    let s := genWrite .shutter p off v s
    (match bit v 31, ((s.c c).lk n).holder with
     | true, some u => (s.abandonLocks c u [n], none)
     | _, _ => (s, none))
  | _ => (genWrite .shutter p off v s, none)

/-- A read of the Shutter page. -/
def shutterRead (m : Master) (c off : Nat) (s : State) : Word :=
  let x := s.c c
  let held := fun (u : Nat) => x.heldBy u
  match off with
  | 0x04C =>
    (match s.lockUnit c m with
     | some u =>
       let y := x.shmy u
       w32 (b2n y.pend * 2 ^ 31 + b2n y.granted * 2 ^ 30 + b2n (y.granted && y.aband) * 2 ^ 29
         + b2n (s.him c y.req) * 2 ^ 28 + b2n y.refused * 2 ^ 27 + b2n y.relerr * 2 ^ 26 + y.req * 2 ^ 16
         + (held u).length)
     | none => 0)
  | 0x050 => ((s.lockUnit c m).map fun u => lockMask (held u) 0).getD 0
  | 0x054 => ((s.lockUnit c m).map fun u => lockMask (held u) 32).getD 0
  | _ =>
    if 0x100 ≤ off ∧ off < 0x200 then
      let n := (off - 0x100) / 4
      let l := x.lk n
      w32 (b2n l.holder.isSome * 2 ^ 31 + b2n l.aband * 2 ^ 30 + b2n (s.him c n) * 2 ^ 29
        + l.holder.getD 0 * 2 ^ 16 + l.wait.foldl (fun a u => a + 2 ^ u) 0)
    else s.reg (pgShutter c) off

end Sys2Proof.Machine
end

