-- ==== Sys2Proof/Machine/Crypto.lean ====
section
/-! DEFINITION. SHA-384, HMAC-SHA-384 and ECDSA P-384 verification (FIPS 180-4, FIPS 198-1, FIPS 186-5; R325, R328,
R352, R368), and the CRC-8 of the Loupe (R364). -/

namespace Sys2Proof.Machine

/-! ### SHA-384 -/

/-- The first 80 primes. -/
def shaPrimes : List Nat :=
  (List.range 410).filter fun n => decide (1 < n) && (List.range n).all fun d => decide (d < 2) || decide (n % d ≠ 0)

/-- The largest number whose `e`-th power is at most `x`, found from bit `n - 1` down above `r`. -/
def rootBits (e x : Nat) : Nat → Nat → Nat
  | 0, r => r
  | n + 1, r => rootBits e x n (if (r + 2 ^ n) ^ e ≤ x then r + 2 ^ n else r)

/-- The first 64 bits of the fraction of the `e`-th root of a prime below 2^9. -/
def rootFrac (e p : Nat) : Nat := rootBits e (p * 2 ^ (64 * e)) 69 0 % 2 ^ 64

/-- Round constants: fractions of the cube roots of the first 80 primes. -/
def shaK : List Nat := shaPrimes.map (rootFrac 3)

/-- Initial hash value of SHA-384: fractions of the square roots of the ninth to sixteenth primes. -/
def shaH : List Nat := ((shaPrimes.drop 8).take 8).map (rootFrac 2)

def m64 (n : Nat) : Nat := n % 2 ^ 64

/-- Rotation of a 64-bit number to the right. -/
def rotr (n x : Nat) : Nat := x / 2 ^ n + x % 2 ^ n * 2 ^ (64 - n)

/-- The eight working variables. -/
structure Sha where
  a : Nat
  b : Nat
  c : Nat
  d : Nat
  e : Nat
  f : Nat
  g : Nat
  h : Nat
  deriving DecidableEq, Repr

/-- One round with constant `k` and schedule word `w`. -/
def Sha.round (x : Sha) (k w : Nat) : Sha :=
  let s1 := rotr 14 x.e ^^^ rotr 18 x.e ^^^ rotr 41 x.e
  let ch := (x.e &&& x.f) ^^^ ((2 ^ 64 - 1 - x.e) &&& x.g)
  let t1 := x.h + s1 + ch + k + w
  let s0 := rotr 28 x.a ^^^ rotr 34 x.a ^^^ rotr 39 x.a
  let mj := (x.a &&& x.b) ^^^ (x.a &&& x.c) ^^^ (x.b &&& x.c)
  { a := m64 (t1 + s0 + mj), b := x.a, c := x.b, d := x.c, e := m64 (x.d + t1), f := x.e, g := x.f, h := x.g }

/-- The next schedule word from the last sixteen, oldest first. -/
def shaNext (w : List Nat) : Nat :=
  let g := fun i => (w[i]?).getD 0
  let s0 := rotr 1 (g 1) ^^^ rotr 8 (g 1) ^^^ (g 1 / 2 ^ 7)
  let s1 := rotr 19 (g 14) ^^^ rotr 61 (g 14) ^^^ (g 14 / 2 ^ 6)
  m64 (s1 + g 9 + s0 + g 0)

/-- The rounds of a block over a list of round constants: variables and sliding schedule. -/
def shaRounds : List Nat → Sha × List Nat → Sha
  | [], (x, _) => x
  | k :: t, (x, w) => shaRounds t (x.round k (w.headD 0), w.drop 1 ++ [shaNext w])

/-- The schedule words of a 128-byte block. -/
def shaWords (l : List Byte) : List Nat := (List.range 16).map fun i => beNat ((l.drop (8 * i)).take 8)

/-- The compression of one block. -/
def shaBlock (h : List Nat) (blk : List Byte) : List Nat :=
  let g := fun i => (h[i]?).getD 0
  let y := shaRounds shaK (⟨g 0, g 1, g 2, g 3, g 4, g 5, g 6, g 7⟩, shaWords blk)
  (h.zip [y.a, y.b, y.c, y.d, y.e, y.f, y.g, y.h]).map fun (a, b) => m64 (a + b)

/-- Blocks of 128 bytes folded in order; the count bounds the number of blocks. -/
def shaFold : Nat → List Nat → List Byte → List Nat
  | 0, h, _ => h
  | n + 1, h, l => shaFold n (shaBlock h (l.take 128)) (l.drop 128)

/-- The SHA-384 digest of a byte string, 48 bytes. -/
def sha384 (l : List Byte) : List Byte :=
  let n := l.length
  let pad := (239 - n % 128) % 128
  let msg := l ++ [0x80] ++ List.replicate pad 0 ++ natBE (8 * n) 16
  ((shaFold (msg.length / 128) shaH msg).take 6).flatMap fun w => natBE w 8

/-- HMAC-SHA-384 with a key of at most 128 bytes. -/
def hmac384 (key msg : List Byte) : List Byte :=
  let k := key ++ List.replicate (128 - key.length) 0
  sha384 (k.map (fun b => b ^^^ 0x5C) ++ sha384 (k.map (fun b => b ^^^ 0x36) ++ msg))

/-! ### ECDSA over P-384 -/

def ecP : Nat := 2 ^ 384 - 2 ^ 128 - 2 ^ 96 + 2 ^ 32 - 1
def ecN : Nat := 0xffffffffffffffffffffffffffffffffffffffffffffffffc7634d81f4372ddf581a0db248b0a77aecec196accc52973
def ecB : Nat := 0xb3312fa7e23ee7e4988e056be3f82d19181d9c6efe8141120314088f5013875ac656398d8a2ed19d2a85c8edd3ec2aef
def ecGx : Nat := 0xaa87ca22be8b05378eb1c71ef320ad746e1d3b628ba79b9859f741e082542a385502f25dbf55296c3a545e3872760ab7
def ecGy : Nat := 0x3617de4a96262c6f5d9e98bf9292dc29f8f41dbd289a147ce9da3113b5f0b8c00a60b1ce1d7e819d7a431d7c90ea0e5f

/-- A point in Jacobian coordinates; z = 0 is the point at infinity. -/
structure Pt where
  x : Nat
  y : Nat
  z : Nat
  deriving DecidableEq, Repr

def Pt.inf : Pt := ⟨1, 1, 0⟩

/-- a − b modulo p. -/
def fSub (a b : Nat) : Nat := (a + (ecP - b % ecP)) % ecP

/-- 2P, with the curve coefficient −3. -/
def Pt.dbl (t : Pt) : Pt :=
  if t.z = 0 ∨ t.y = 0 then Pt.inf
  else
    let yy := t.y * t.y % ecP
    let zz := t.z * t.z % ecP
    let s := 4 * t.x * yy % ecP
    let m := 3 * fSub t.x zz * ((t.x + zz) % ecP) % ecP
    let x := fSub (m * m) (2 * s)
    ⟨x, fSub (m * fSub s x) (8 * yy * yy), 2 * t.y * t.z % ecP⟩

/-- P + Q. -/
def Pt.add (t u : Pt) : Pt :=
  if t.z = 0 then u
  else if u.z = 0 then t
  else
    let z1 := t.z * t.z % ecP
    let z2 := u.z * u.z % ecP
    let u1 := t.x * z2 % ecP
    let u2 := u.x * z1 % ecP
    let s1 := t.y * z2 * u.z % ecP
    let s2 := u.y * z1 * t.z % ecP
    let h := fSub u2 u1
    let r := fSub s2 s1
    if h = 0 then (if r = 0 then t.dbl else Pt.inf)
    else
      let hh := h * h % ecP
      let hhh := hh * h % ecP
      let v := u1 * hh % ecP
      let x := fSub (r * r) (hhh + 2 * v)
      ⟨x, fSub (r * fSub v x) (s1 * hhh), t.z * u.z * h % ecP⟩

/-- kP + lQ over the `n` low bits of k and l, from the highest. -/
def ptSum (k l : Nat) (t u : Pt) : Nat → Pt
  | 0 => Pt.inf
  | n + 1 =>
    let a := (ptSum (k / 2) (l / 2) t u n).dbl
    let a := if k % 2 = 1 then a.add t else a
    if l % 2 = 1 then a.add u else a

/-- b^e modulo m over the `n` low bits of e. -/
def powMod (b m e : Nat) : Nat → Nat
  | 0 => 1 % m
  | n + 1 =>
    let h := powMod (b * b % m) m (e / 2) n
    if e % 2 = 1 then h * b % m else h

/-- The affine point (x, y) lies on the curve. -/
def onCurve (x y : Nat) : Bool :=
  decide (x < ecP) && decide (y < ecP) && decide (y * y % ecP = fSub (x * x * x + ecB) (3 * x))

/-- SIG, r then s, verifies over a digest with the public key X then Y, all most significant byte first (R325). -/
def ecdsaOk (pub sig digest : List Byte) : Bool :=
  let x := beNat (pub.take 48)
  let y := beNat (pub.drop 48)
  let r := beNat (sig.take 48)
  let s := beNat (sig.drop 48)
  if r = 0 ∨ ecN ≤ r ∨ s = 0 ∨ ecN ≤ s ∨ onCurve x y = false then false
  else
    let w := powMod s ecN (ecN - 2) 384
    let q := ptSum (beNat digest * w % ecN) (r * w % ecN) ⟨ecGx, ecGy, 1⟩ ⟨x, y, 1⟩ 384
    if q.z = 0 then false
    else
      let zz := q.z * q.z % ecP
      decide (q.x = r * zz % ecP) || (decide (r + ecN < ecP) && decide (q.x = (r + ecN) * zz % ecP))

/-! ### CRC-8 of the Loupe -/

/-- One bit of the CRC-8 with polynomial 0x07. -/
def crc8Bit (c : Nat) (b : Bool) : Nat :=
  let t := c * 2 % 256
  if (decide (128 ≤ c)) != b then t ^^^ 0x07 else t

/-- The CRC-8 of a string of bits in the order they are sent (R364). -/
def crc8 (l : List Bool) : Nat := l.foldl crc8Bit 0

/-- The `n` low bits of a number, lowest first. -/
def bitsOf (v n : Nat) : List Bool := (List.range n).map fun i => v.testBit i

end Sys2Proof.Machine
end

