-- ==== Sys2Proof/Machine/Flags.lean ====
section
/-! DEFINITION. Flag computations (R87) and the shift and divide tables (R90, R92). -/

namespace Sys2Proof.Machine

/-- A result with its carry and signed overflow. -/
structure Arith where
  res : Word
  c : Bool
  v : Bool
  deriving DecidableEq, Repr

/-- a + b + cin: C is the carry out of bit 31, V the signed overflow (R87). -/
def addc (a b : Word) (cin : Bool) : Arith :=
  let r : Word := a + b + w32 (b2n cin)
  ⟨r, decide (2 ^ 32 ≤ a.toNat + b.toNat + b2n cin), decide (a.toInt + b.toInt + (b2n cin : Int) ≠ r.toInt)⟩

/-- a − b − (1 − cin): C is 1 when no borrow occurs (R87). -/
def subc (a b : Word) (cin : Bool) : Arith :=
  let r : Word := a - b - w32 (1 - b2n cin)
  ⟨r, decide (b.toNat + (1 - b2n cin) ≤ a.toNat), decide (a.toInt - b.toInt - ((1 - b2n cin : Nat) : Int) ≠ r.toInt)⟩

/-- ESTAT with N and Z of a result. -/
def setNZ (e r : Word) : Word := insBit (insBit e 0 (bit r 31)) 1 (decide (r = 0))

/-- ESTAT with N, Z, C and V of a result. -/
def setNZCV (e : Word) (x : Arith) : Word := insBit (insBit (setNZ e x.res) 2 x.c) 3 x.v

/-- Shift operations of R90. -/
inductive Sh
  | shl | shr | sar | ror
  deriving DecidableEq, Repr

/-- A shift by a count of 0 to 255 (R90). -/
def shift (o : Sh) (a : Word) (s : Nat) : Word :=
  match o with
  | .shl => if 32 ≤ s then 0 else a <<< s
  | .shr => if 32 ≤ s then 0 else a >>> s
  | .sar => if 32 ≤ s then (if bit a 31 then 0xFFFFFFFF else 0) else a.sshiftRight s
  | .ror => a.rotateRight (s % 32)

/-- Quotient, remainder, V and DZ of a division; `fn` is 2 DIV, 3 DIVU, 4 REM, 5 REMU (R92). -/
def divide (signed : Bool) (a b : Word) : Word × Word × Bool × Bool :=
  if b = 0 then
    (if signed then (if bit a 31 then 0x80000000 else 0x7FFFFFFF) else 0xFFFFFFFF, a, false, true)
  else if signed then
    (if a = 0x80000000 ∧ b = 0xFFFFFFFF then (0x80000000, 0, true, false)
     else (BitVec.ofInt 32 (a.toInt.tdiv b.toInt), BitVec.ofInt 32 (a.toInt.tmod b.toInt), false, false))
  else (w32 (a.toNat / b.toNat), w32 (a.toNat % b.toNat), false, false)

/-- The 64-bit product (R91). -/
def product (signed : Bool) (a b : Word) : DWord :=
  if signed then BitVec.ofInt 64 (a.toInt * b.toInt) else BitVec.ofNat 64 (a.toNat * b.toNat)

/-- A branch condition read from ESTAT (R74). -/
def condHolds (cond : Nat) (e : Word) : Bool :=
  let n := bit e 0
  let z := bit e 1
  let c := bit e 2
  let v := bit e 3
  match cond with
  | 0x0 => true
  | 0x1 => z
  | 0x2 => !z
  | 0x3 => c
  | 0x4 => !c
  | 0x5 => c && !z
  | 0x6 => !c || z
  | 0x7 => n == v
  | 0x8 => n != v
  | 0x9 => !z && (n == v)
  | 0xA => z || (n != v)
  | 0xB => n
  | 0xC => !n
  | 0xD => v
  | 0xE => !v
  | _ => bit e 4

end Sys2Proof.Machine
end

