-- ==== Sys2Proof/Machine/Queue.lean ====
section
/-! DEFINITION. Reel queues: joins, TX and RX accesses, retained entries, running checks, queue events
(R182 to R188, R234, R235, R293 to R295). -/

namespace Sys2Proof.Machine

/-- Position of a Reel: its cluster, its number in the cluster, its region. -/
def rC (r : Nat) : Nat := r / 5
def rE (r : Nat) : Nat := r % 5
def rR (r : Nat) : Nat := r / 20

/-- An ECC finding in a Reel memory counts in the region's counters (R273). -/
def State.regEcc (s : State) (r : Nat) (e : Ecc) : State :=
  match e with
  | .ok => s
  | .corr => s.addCnt (rkey (pgRegion (rR r)) 0x240) 1
  | .unc => s.addCnt (rkey (pgRegion (rR r)) 0x248) 1

/-- The lowest slot of the join that holds slot `k` (R187). -/
def State.owner (s : State) (r k : Nat) : Nat :=
  let j := s.reg (pgReel r) 0x7C4
  if bit j (k % 4) then k % 4 else if bit j (8 + k % 8) then k % 8 else k

/-- Entries each queue of slot `k` holds. -/
def State.cap (s : State) (r k : Nat) : Nat :=
  let j := s.reg (pgReel r) 0x7C4
  if bit j (k % 4) then 16 else if bit j (8 + k % 8) then 8 else 4

def ReelSt.txq (x : ReelSt) (k : Nat) : List QEnt := Tab.get [] x.tx k
def ReelSt.rxq (x : ReelSt) (k : Nat) : List QEnt := Tab.get [] x.rx k
def ReelSt.retq (x : ReelSt) (k : Nat) : List QEnt := Tab.get [] x.ret k
def ReelSt.acc (x : ReelSt) (k : Nat) : Word := Tab.get 0xFFFFFFFF x.qacc k
def ReelSt.setTx (x : ReelSt) (k : Nat) (l : List QEnt) : ReelSt := { x with tx := Tab.set [] x.tx k l }
def ReelSt.setRx (x : ReelSt) (k : Nat) (l : List QEnt) : ReelSt := { x with rx := Tab.set [] x.rx k l }
def ReelSt.setRet (x : ReelSt) (k : Nat) (l : List QEnt) : ReelSt := { x with ret := Tab.set [] x.ret k l }
def ReelSt.setAcc (x : ReelSt) (k : Nat) (v : Word) : ReelSt := { x with qacc := Tab.set 0xFFFFFFFF x.qacc k v }

/-- Offsets of the latch FXQCCWe_k, of NGRETe_k and of NGRCKe_k of a Reel's slot (R235, R292). -/
def offLatch (r k : Nat) : Nat := 0x400 + 64 * rE r + 4 * k
def offRet (r k : Nat) : Nat := 0x200 + 64 * rE r + 4 * k

/-- Retained entries freed, RETCNT 0 (R293). -/
def State.freeRet (s : State) (r k : Nat) : State :=
  (s.onR r fun x => x.setRet k []).setFld (pgNeg (rC r)) (offRet r k) 0 5 0

/-- What the current Reel cycle has done to the queues of a Reel. -/
def State.qcyc (s : State) (r : Nat) : QCyc :=
  if (s.r r).qc.cyc = s.rcyc + 1 then (s.r r).qc else { QCyc.none with cyc := s.rcyc + 1 }

def State.onQc (s : State) (r : Nat) (f : QCyc → QCyc) : State := s.onR r fun x => { x with qc := f (s.qcyc r) }

/-- The queues of owner slot `o` as the current Reel cycle began, where a channel reset has emptied them in it (R185). -/
def State.qwas (s : State) (r o : Nat) : Option (List QEnt × Bool) :=
  ((s.qcyc r).was.find? fun e => decide (e.1 = o)).map Prod.snd

/-- The TX and the RX queue of owner slot `o` without the word that the current Reel cycle has appended: what a PULL and
an RXD read see (R185). -/
def State.txSeen (s : State) (r o : Nat) : List QEnt :=
  if let some e := s.qwas r o then e.1
  else if (s.qcyc r).txIn = some o then ((s.r r).txq o).dropLast else (s.r r).txq o
def State.rxSeen (s : State) (r o : Nat) : List QEnt :=
  if (s.qcyc r).rxIn = some o then ((s.r r).rxq o).dropLast else (s.r r).rxq o

/-- Entries of the TX queue, of the RX queue, and of the RX queue with its retained entries, as the current Reel cycle
began (R185). -/
def State.txLen (s : State) (r o : Nat) : Nat :=
  (s.txSeen r o).length + b2n (decide ((s.qcyc r).txOut = some o))
def State.rxLen (s : State) (r o : Nat) : Nat :=
  (s.rxSeen r o).length + b2n ((s.qcyc r).rxOut.any fun e => decide (e.1 = o))
def State.rxAll (s : State) (r o : Nat) : Nat :=
  (s.rxSeen r o).length + ((s.r r).retq o).length + b2n (decide ((s.qcyc r).rxOut = some (o, false)))

/-- The queues of slot `k` emptied and its QACC restarted (R187, R234). -/
def State.emptyQ (s : State) (r k : Nat) : State :=
  let s := s.onQc r fun q => { q with txIn := none, txOut := none, rxIn := none, rxOut := none }
  (s.onR r fun x => ((x.setTx k []).setRx k []).setAcc k 0xFFFFFFFF).freeRet r k

/-- The queue owned by slot `k`, as the Reel cycle began, meets an enabled event condition (R183, R188). -/
def State.qcond (s : State) (r k : Nat) : Bool :=
  let q := s.reg (pgReel r) (0x740 + 4 * k)
  (bit q 31 && decide (max 1 (fld q 24 5) ≤ s.rxLen r k))
    || (bit q 15 && decide (s.txLen r k ≤ fld q 8 5))
    || (bit q 0 && (List.range 16).any fun i =>
          decide (s.owner r i = k) && decide (s.rfld (pgReel r) (0x100 + 4 * i) 2 2 ≠ 0))

/-- QEVT and PGIRQ_RAW.QUEUE set by the hardware (R188). -/
def State.qev (s : State) (r : Nat) : State :=
  let m := (below 16 fun k => decide (s.owner r k = k) && s.qcond r k).foldl (fun a k => a + 2 ^ k) 0
  let s := if m = 0 then s else s.setReg (pgReel r) 0x7C0 (s.reg (pgReel r) 0x7C0 ||| w32 m)
  if s.reg (pgReel r) 0x7C0 = 0 then s else s.flag (pgReel r) 18

/-- PULL: the head of the TX queue as the cycle began; an uncorrectable head is removed, logged and acts as an empty
queue (R185, R186). -/
def State.pullTx (s : State) (r k : Nat) : Option Word × State :=
  let o := s.owner r k
  match s.txSeen r o with
  | [] => (none, s)
  | e :: _ =>
    let c := synClass e.synd
    let s := (if (s.qwas r o).isSome then s
      else (s.onR r fun x => x.setTx o ((x.txq o).drop 1)).onQc r fun q => { q with txOut := some o }).regEcc r c
    if c = .unc then (none, s.logDie 0x20 (w32 (rE r * 256 + k)) 0)
    else (some ((fixWord (e.acc ++ e.w) e.synd).extractLsb' 0 32), s)

/-- The RX queue of slot `k` was full as the cycle began (R184, R185, R293). -/
def State.rxFull (s : State) (r k : Nat) : Bool :=
  match s.qwas r (s.owner r k) with
  | some e => e.2
  | none => decide (s.cap r k ≤ s.rxAll r (s.owner r k))

/-- PUSH of a word by channel `k`, folded into QACC even when it is dropped (R184, R232, R234); where a channel reset has
emptied the queue in this Reel cycle, it stays empty and QACC restarted (R185). -/
def State.pushRx (s : State) (r k : Nat) (w : Word) (poisoned : Bool) : State :=
  let o := s.owner r k
  let a := crcWord ((s.r r).acc o) w
  let full := s.rxFull r k
  let gone := (s.qwas r o).isSome
  let s := if gone then s else s.onR r fun x => x.setAcc o a
  if full then (s.setBit (pgReel r) (0x100 + 4 * k) 3 true).addSat (pgReel r) (0x6C0 + 4 * k) 0 16 1
  else if gone then s
  else
    (s.onR r fun x => x.setRx o (x.rxq o ++ [{ w := w, acc := if poisoned then ~~~a else a, synd := 0 }])).onQc r
      fun q => { q with rxIn := some o }

/-- The logical unit of the Reel's cluster that a master is. -/
def State.readerOf (s : State) (r : Nat) (m : Master) : Option Nat :=
  match m with
  | .unit p => if cOf p = rC r then some (s.logU p) else none
  | _ => none

/-- A page write of TXDk (R184, R295). -/
def State.txd (s : State) (m : Master) (r k : Nat) (v : Word) : State :=
  let ng := pgNeg (rC r)
  let s := s.setReg (pgReel r) (0x600 + 4 * k) v
  let u := (s.readerOf r m).filter (fun u => decide (u < 8))
  let s := match u with
    | some u => s.addSat ng (0x088 + 16 * u) 0 16 1
    | none => s
  let spare := match m with
    | .unit p => decide (uOf p = 8)
    | _ => false
  let sup := match u with
    | some u => if spare then s.rfld ng (0x08C + 16 * u) 0 16 else 0
    | none => 0
  if sup ≠ 0 then s.setFld ng (0x08C + 16 * (u.getD 0)) 0 16 (sup - 1)
  else
    let o := s.owner r k
    if s.cap r k ≤ s.txLen r o then s.setBit (pgReel r) (0x680 + 4 * o) 25 true
    else
      (s.onR r fun x => x.setTx o (x.txq o ++ [{ w := v, acc := 0, synd := 0 }])).onQc r fun q =>
        { q with txIn := some o }

/-- A page read of RXDk: data, response (3: the entry was uncorrectable) and the state (R184, R186, R293). -/
def State.rxd (s : State) (m : Master) (r k : Nat) (peek : Bool) : Word × Nat × State :=
  let o := s.owner r k
  match s.rxSeen r o with
  | [] => (0, 0, if peek then s else s.setBit (pgReel r) (0x680 + 4 * o) 24 true)
  | e :: _ =>
    let c := synClass e.synd
    let d := fixWord (e.acc ++ e.w) e.synd
    let v : Word := d.extractLsb' 0 32
    if peek then (if c = .unc then (0, 3, s) else (v, 0, s))
    else
      let i := 16 * rE r + o
      let g := s.reg (pgNeg (rC r)) (offRet r o)
      let keep := bit g 31 && decide (s.readerOf r m = some (fld g 24 3))
      let s := ((s.onR r fun x => x.setRx o ((x.rxq o).drop 1)).onQc r fun q =>
        { q with rxOut := some (o, keep) }).regEcc r c
      let s := s.onC (rC r) fun x => { x with toPop := Tab.set 0 x.toPop i (Tab.get 0 x.toPop i - 1) }
      let s := if keep then
          (s.onR r fun x => x.setRet o (x.retq o ++ [e])).addSat (pgNeg (rC r)) (offRet r o) 0 5 1
        else s
      if c = .unc then (0, 3, s.logDie 0x20 (w32 (rE r * 256 + k)) 0)
      else (v, 0, s.setReg (pgCommon (rC r)) (offLatch r o) (d.extractLsb' 32 32))

/-- QSTATk as it reads (R183, R187). -/
def State.qstat (s : State) (r k : Nat) : Word :=
  let o := s.owner r k
  (s.reg (pgReel r) (0x680 + 4 * o) &&& 0x03000000) |||
    w32 (b2n (decide (o ≠ k)) * 2 ^ 31 + s.txLen r o * 2 ^ 16 + s.rxLen r o * 2 ^ 8 + s.cap r k)

/-- Channel `k` runs. -/
def State.running (s : State) (r k : Nat) : Bool := s.rbit (pgReel r) (0x080 + 4 * k) 31

/-- Slots of the group that bit `b` of QJOIN joins. -/
def joinGroup (b : Nat) : List Nat := if b < 8 then [b, b + 4, b + 8, b + 12] else [b - 8, b]

/-- A write of QJOIN (R187). -/
def State.qjoin (s : State) (r : Nat) (v : Word) : State :=
  let old := s.reg (pgReel r) 0x7C4
  let bits := [0, 1, 2, 3, 8, 9, 10, 11, 12, 13, 14, 15]
  let changed := bits.filter fun b => bit old b != bit v b
  let clash := (List.range 4).any fun k => bit v k && (bit v (8 + k) || bit v (12 + k))
  let busy := changed.any fun b => (joinGroup b).any fun k => s.running r k
  if clash || busy then s.setBit (pgReel r) 0x7C4 31 true
  else
    let s := genWrite .reel (pgReel r) 0x7C4 v s
    each changed (fun b s => each (joinGroup b) (fun k s => s.emptyQ r k) s) s

/-- A write of NGRETe_k (R293, R294). -/
def State.ngret (s : State) (c e k : Nat) (v : Word) : State :=
  let r := 5 * c + e
  let s := genWrite .neg (pgNeg c) (offRet r k) v s
  if bit v 31 then s.setReg (pgNeg c) (0x400 + 64 * e + 4 * k) (s.reg (pgCommon c) (offLatch r k))
  else s.freeRet r k

/-- The retained entries, NGRCK latches of a logical unit at its completed checkpoint (R291, R294), or freed at its
reset. -/
def State.freeReader (s : State) (c u : Nat) (latch : Bool) : State :=
  each (List.range 5) (fun e s => each (List.range 16) (fun k s =>
    let g := s.reg (pgNeg c) (0x200 + 64 * e + 4 * k)
    if fld g 24 3 = u then
      let s := s.freeRet (5 * c + e) k
      if latch then s.setReg (pgNeg c) (0x400 + 64 * e + 4 * k) (s.reg (pgCommon c) (0x400 + 64 * e + 4 * k)) else s
    else s) s) s

end Sys2Proof.Machine
end

