-- ==== Sys2Proof/Machine/ReelCore.lean ====
section
/-! DEFINITION. Reel channels: start and stop (R153, R156), pins and edges (R157, R158, R171), the bit-timing sampler
(R159 to R165, R170, R174), program memory (R175), evaluation of an instruction in a served slot (R166, R167, R189,
R190), and the synchronous start (R193). -/

namespace Sys2Proof.Machine

/-! ### Registers of a channel -/

def offCfg (k : Nat) : Nat := 0x080 + 4 * k
def offStat (k : Nat) : Nat := 0x100 + 4 * k
def offSmp (k : Nat) : Nat := 0x1C0 + 4 * k

def State.onSmp (s : State) (r k : Nat) (f : Smp → Smp) : State := s.onCh r k fun x => { x with smp := f x.smp }

/-- A sticky flag of CHSTATk set (R155). -/
def State.chFlag (s : State) (r k i : Nat) : State := s.setBit (pgReel r) (offStat k) i true

def State.sdir (s : State) (r k : Nat) : Bool := s.rbit (pgReel r) (offCfg k) 29

/-! ### Stop and start (R153, R156) -/

/-- Bit timing stopped (R161). -/
def Smp.stop (x : Smp) : Smp := { x with on := false, arm := 0, setB := none, setS := none, chk := [] }

/-- What every stop of a channel does (R156). -/
def State.chStop (s : State) (r k : Nat) : State :=
  (s.onCh r k fun x => { x with held := none, inj := none, aout := [], aoe := [], smp := x.smp.stop }).setBit
    (pgReel r) (offCfg k) 31 false

/-- An error stop: the instruction has no effect and PC stays at it. -/
def State.chErr (s : State) (r k code : Nat) : State :=
  ((s.chStop r k).setFld (pgReel r) (offStat k) 24 4 code).flag (pgReel r) 16

/-- Slots m of a SIZE code, or none for an unassigned code (R152). -/
def sizeOf (c : Nat) : Option Nat := if c ≤ 4 then some (2 ^ c) else none

/-- The slots a channel of `m` slots at base `k` holds (R152). -/
def slotsOf (k m : Nat) : List Nat := (List.range m).map fun i => k + i * (16 / m)

/-- A slot belongs to a running channel. -/
def State.slotBusy (s : State) (r i : Nat) : Bool :=
  (List.range 16).any fun k => s.running r k && decide (i ∈ slotsOf k (s.chan r k).size)

/-- The start check of R153 against SIZE and START of CHCFGk. -/
def State.chStart (s : State) (r k : Nat) : State :=
  let v := s.reg (pgReel r) (offCfg k)
  let ok := match sizeOf (fld v 12 3) with
    | some m => decide (k < 16 / m) && (slotsOf k m).all fun i => !s.slotBusy r i
    | none => false
  if ok then
    ((s.onCh r k fun x =>
        { x with pc := fld v 0 9, size := (sizeOf (fld v 12 3)).getD 1, held := none, inj := none,
                 smp := x.smp.stop }).setBit (pgReel r) (offCfg k) 31 true).setFld (pgReel r) (offStat k) 24 4 0
  else s.setFld (pgReel r) (offStat k) 24 4 2

/-- Every channel stops for retention: a waiting instruction is abandoned and the pins read out 0 and oe 0; queues and
registers are kept (R156, R386). -/
def State.reelNap (s : State) (r : Nat) : State :=
  each (List.range 16) (fun k s => (s.chStop r k).onCh r k fun x => { x with out := 0, oe := 0 }) s

/-- Channel reset (R154, R155): context, and the queues of an owner. -/
def State.chReset (s : State) (r k : Nat) : State :=
  let s := (s.chStop r k).setChan r k Chan.reset
  let s := s.setFld (pgReel r) (offSmp k) 24 8 0
  if s.owner r k = k then
    ((s.emptyQ r k).onQc r fun q => { q with was := (k, s.txSeen r k, s.rxFull r k) :: q.was }).setReg (pgCommon (rC r)) (offLatch r k) 0xFFFFFFFF
  else s

/-- A write of CHCFGk (R153 to R156); a channel that it starts is noted for the start cycle of R193. -/
def State.chcfg (s : State) (r k : Nat) (v : Word) : State :=
  let s := if bit v 28 then s.chReset r k else s
  let was := s.running r k
  let old := s.reg (pgReel r) (offCfg k)
  let s := s.setReg (pgReel r) (offCfg k) (insBit (v &&& 0xE00071FF) 31 was)
  if bit v 31 then
    (if was then s
     else (s.chStart r k).onR r fun x => { x with ran := some (s.rcyc + 1, k, insBit old 31 false, v) })
  else if was then s.chStop r k else s

/-! ### Pins (R157, R158) -/

/-- Block pad number that pin `j` reads. -/
def State.padOf (s : State) (r k j : Nat) : Nat := 32 * rC r + s.rfld (pgReel r) (0x180 + 4 * k) (8 * j) 5

/-- Visible level of pin `j`. -/
def State.pinLvl (s : State) (r k j : Nat) : Bool :=
  Tab.get false s.pads (s.padOf r k j) != s.rbit (pgReel r) (0x180 + 4 * k) (8 * j + 7)

/-- An output or output enable of a pin written at once; lost when a pending value reaches it in the same cycle
(R170). -/
def State.setPin (s : State) (r k j : Nat) (oe b : Bool) : State :=
  let i := 2 * j + b2n oe
  let x := s.chan r k
  if x.bndAt = s.rcyc + 1 ∧ i ∈ x.bndPins then s
  else
    s.setChan r k (if oe then { x with oe := insBit x.oe j b }
      else { x with out := insBit x.out j b, app := insBit x.app j true })

/-- Level and output enable of a pad at the block port (R178). DESIGN CHOICE; log entry 45. -/
def State.padOut (s : State) (pad : Nat) : Bool × Bool :=
  let c := pad / 32
  let v := s.reg (pgXbar c) (0x040 + 4 * (pad % 32))
  let r := 5 * c + fld v 0 3
  let k := fld v 6 4
  let j := fld v 4 2
  let base := !((List.range 16).any fun i => decide (i ≠ k) && s.running r i && decide (k ∈ slotsOf i (s.chan r i).size))
  if bit v 31 && decide (fld v 0 3 < 5) && s.cluUp c && s.reelUp r && base then
    (bit (s.chan r k).out j != s.rbit (pgReel r) (0x180 + 4 * k) (8 * j + 7), bit (s.chan r k).oe j)
  else (false, false)

/-- PADCTL_DRV, PADCTL_SLEW, PADCTL_PU and PADCTL_PD of cluster `c` from bit 0 (R179). -/
def State.padCtl (s : State) (c : Nat) : BitVec 4 :=
  if s.cluUp c then (s.reg (pgXbar c) 0x0C0).extractLsb' 0 4 else 0

/-! ### Sampler -/

/-- The values of bit-timing set `i` (R159). -/
def State.btOf (s : State) (r k i : Nat) : Bt :=
  let a := s.reg (pgReel r) (0x200 + 16 * k + 8 * i)
  let b := s.reg (pgReel r) (0x204 + 16 * k + 8 * i)
  { pre := fld a 24 8, period := fld a 0 16, sp := fld b 0 16, sjw := fld b 24 8, tdco := fld b 16 8 }

/-- A set is valid (R159). -/
def Bt.ok (t : Bt) : Bool :=
  decide (4 ≤ t.period ∧ 1 ≤ t.sp ∧ t.sp ≤ t.period - 1 ∧ t.sjw < t.sp ∧ t.sjw ≤ t.period - t.sp ∧ t.tdco < t.period)

def Bt.q (t : Bt) : Nat := t.pre + 1
/-- Bit length in Reel cycles. -/
def Bt.len (t : Bt) : Nat := t.q * t.period

/-- Set `i` becomes active: checked, taken into the working settings, named by ACTSET (R159, R160).
DEDUCED; log entry 39. -/
def State.activate (s : State) (r k i : Nat) : State :=
  if (s.btOf r k i).ok then
    (s.onSmp r k fun x => { x with bt := s.btOf r k i }).setBit (pgReel r) (offSmp k) 15 (decide (i = 1))
  else s.chErr r k 3

/-- Both stuff counters reset (R160). -/
def Smp.noStuff (x : Smp) : Smp := { x with rxn := 0, rxAny := false, txn := 0, txAny := false }

/-- A write of SMPCFGk: the new state, or none when it is refused with CFGBAD (R160). -/
def State.smpcfg (s : State) (r k : Nat) (v : Word) : Option State :=
  if fld v 8 2 = 3 ∨ (fld v 8 2 ≠ 0 ∧ fld v 10 4 = 0) then none
  else
    let old := s.reg (pgReel r) (offSmp k)
    let s := genWrite .reel (pgReel r) (offSmp k) v s
    if fld old 8 6 = fld v 8 6 then some s
    else some ((s.onSmp r k Smp.noStuff).setFld (pgReel r) (offSmp k) 24 8 0)

/-- A page write of SMPCFGk. -/
def State.smpcfgPage (s : State) (r k : Nat) (v : Word) : State :=
  match s.smpcfg r k v with
  | some t => t
  | none => if s.running r k then s.chErr r k 3 else s.setFld (pgReel r) (offStat k) 24 4 3

/-- A boundary or a sample has fallen, as a waiting WAITBIT counts it (R167). -/
def Held.mark (h : Held) (cyc : Nat) (bnd : Bool) : Held :=
  if h.issued && decide (h.cyc ≠ cyc) then { h with bnd := h.bnd || bnd, smp := h.smp || !bnd } else h
def State.markHeld (s : State) (r k : Nat) (bnd : Bool) : State :=
  s.onCh r k fun x =>
    { x with held := x.held.map fun h => h.mark s.rcyc bnd, inj := x.inj.map fun h => h.mark s.rcyc bnd }

/-- The level that a boundary applies to TXPIN with its stuff counters: `none` when nothing is applied; the last
component says that a stuff bit was applied (R164). -/
def txApply (mode n : Nat) (pend : Option Bool) (x : Smp) : Option Bool × Smp × Bool :=
  if mode ≠ 0 ∧ x.txAny ∧ x.txn = n then
    (some (!x.txl), { x with txl := !x.txl, txn := (if mode = 1 then 1 else 0) }, true)
  else
    match pend with
    | none => (none, x, false)
    | some l =>
      if mode = 0 then (some l, x, false)
      else if mode = 1 then
        (some l, { x with txn := (if x.txAny && (x.txl == l) then x.txn + 1 else 1), txl := l, txAny := true }, false)
      else (some l, { x with txn := x.txn + 1, txl := l, txAny := true }, false)

/-- What a bit boundary does besides restarting BCYC: pending values applied, stuff bits, the level to check
(R161, R164, R165, R170). -/
def State.boundary (s : State) (r k : Nat) : State :=
  let cfg := s.reg (pgReel r) (offSmp k)
  let t := fld cfg 2 2
  let x := s.chan r k
  let (lvl, smp, stuff) := txApply (fld cfg 8 2) (fld cfg 10 4) (Tab.get none x.aout t) x.smp
  let outs := below 4 fun j => decide (j ≠ t) && (Tab.get none x.aout j).isSome
  let oes := below 4 fun j => (Tab.get none x.aoe j).isSome
  let out := outs.foldl (fun o j => insBit o j ((Tab.get none x.aout j).getD false)) x.out
  let app := outs.foldl (fun o j => insBit o j true) x.app
  let oe := oes.foldl (fun o j => insBit o j ((Tab.get none x.aoe j).getD false)) x.oe
  let out := match lvl with
    | some l => insBit out t l
    | none => out
  let app := if lvl.isSome then insBit app t true else app
  let keep : Tab (Option Bool) := if stuff && (Tab.get none x.aout t).isSome then [(t, Tab.get none x.aout t)] else []
  let chk := match lvl with
    | some l => if smp.bt.tdco = 0 then smp.chk else smp.chk ++ [(s.rcyc + smp.bt.q * smp.bt.tdco, l)]
    | none => smp.chk
  let smp := { smp with appl := lvl, sampled := false, noRs := false, chk := chk }
  let pins := outs.map (fun j => 2 * j) ++ oes.map (fun j => 2 * j + 1) ++ (if lvl.isSome then [2 * t] else [])
  let s := s.setChan r k { x with out := out, app := app, oe := oe, aout := keep, aoe := [], smp := smp,
                                  bndAt := s.rcyc + 1, bndPins := pins }
  s.markHeld r k true

/-- SETBT MODE 0 or 1: the set chosen for the next boundary becomes active (R167). -/
def State.swapB (s : State) (r k : Nat) : State :=
  match (s.chan r k).smp.setB with
  | some i => (s.onSmp r k fun x => { x with setB := none }).activate r k i
  | none => s

/-- A hard sync: a bit boundary with BCYC = `b`, stuff counters and STCNT reset, SRDY cleared (R162). -/
def State.hardSync (s : State) (r k b : Nat) (ts : DWord) : State :=
  let s := s.activate r k (fld (s.reg (pgReel r) (offSmp k)) 15 1)
  if s.running r k then
    let s := (s.onSmp r k fun x =>
      { x.noStuff with on := true, bcyc := b, srdy := false, hsTs := ts, arm := 0 }).setFld (pgReel r) (offSmp k) 24 8 0
    let s := (s.swapB r k).boundary r k
    s.onSmp r k fun x => { x with noRs := true }
  else s

/-- The bit boundary of R161, in the cycle after BCYC = L − 1. BCYC stands at L from the start of that cycle until the
boundary sets it to 0. -/
def State.bitBoundary (s : State) (r k : Nat) : State :=
  let x := (s.chan r k).smp
  if s.running r k && x.on && decide (x.bt.len ≤ x.bcyc) then
    let s := (s.onSmp r k fun x => { x with bcyc := 0 }).swapB r k
    if s.running r k then s.boundary r k else s
  else s

/-- A check of the level on SPIN against an applied level (R165). -/
def State.bitCheck (s : State) (r k : Nat) (lvl appl : Bool) : State :=
  let s := s.onSmp r k fun x => { x with bitErr := lvl != appl }
  if lvl = appl then s else s.chFlag r k 6

/-- The receive side of a sample: whether it is delivered, the stuff counters, whether STUFFERR is raised, and whether
it is a stuff bit (R164). The run that follows an erroneous dynamic stuff bit begins with that bit (DESIGN CHOICE; log entry
66). -/
def rxSample (mode n : Nat) (v : Bool) (x : Smp) : Smp × Bool × Bool :=
  if mode ≠ 0 ∧ x.rxAny ∧ x.rxn = n then
    ({ x with rxn := (if mode = 2 then 0 else 1), rxl := v }, true, v == x.rxl)
  else if mode = 0 then (x, false, false)
  else if mode = 1 then
    ({ x with rxn := (if x.rxAny && (x.rxl == v) then x.rxn + 1 else 1), rxl := v, rxAny := true }, false, false)
  else ({ x with rxn := x.rxn + 1, rxl := v, rxAny := true }, false, false)

/-- The sample of the current bit, once BCYC has reached q × SP (R161, R164, R165, R174). -/
def State.samplePoint (s : State) (r k : Nat) : State :=
  let x := (s.chan r k).smp
  if s.running r k && x.on && !x.sampled && decide (x.bt.q * x.bt.sp ≤ x.bcyc) then
    let cfg := s.reg (pgReel r) (offSmp k)
    let v := s.pinLvl r k (fld cfg 0 2)
    let (y, stuff, err) := rxSample (fld cfg 8 2) (fld cfg 10 4) v x
    let s := s.onSmp r k fun _ =>
      { y with sampled := true, s0 := s.rcyc, srdy := (if stuff then y.srdy else true),
               sbit := (if stuff then y.sbit else v), stuffErr := y.stuffErr || err }
    let s := if stuff then s.setFld (pgReel r) (offSmp k) 24 8 (fld cfg 24 8 + 1) else s
    let s := if err then s.chFlag r k 5 else s
    let s := if !stuff && x.srdy then s.chFlag r k 4 else s
    let s := match x.appl with
      | some l => if x.bt.tdco = 0 then s.bitCheck r k v l else s
      | none => s.onSmp r k fun z => { z with bitErr := false }
    let s := match x.setS with
      | some i =>
        let s := (s.onSmp r k fun z => { z with setS := none }).activate r k i
        s.onSmp r k fun z => { z with bcyc := z.bt.q * z.bt.sp }
      | none => s
    s.markHeld r k false
  else s

/-- A resynchronising edge whose first visible cycle is the current one (R163). -/
def State.resync (s : State) (r k : Nat) : State :=
  s.onSmp r k fun x =>
    let jmp := x.bt.q * x.bt.sjw
    let len := x.bt.len
    if x.bcyc < 2 then { x with bcyc := min (x.bcyc + min (2 - x.bcyc) jmp) (len - 1), noRs := true }
    else
      let e := x.bcyc - 2
      if e = 0 then x
      else if e ≤ x.bt.q * x.bt.sp then { x with bcyc := x.bcyc - min e jmp, noRs := true }
      else { x with bcyc := min (x.bcyc + min (len - e) jmp) (len - 1), noRs := true }

/-- An edge of pin `j` of a channel becomes visible: edge latch, then hard synchronisation or resynchronisation by the
pin the sampler follows (R158, R162, R163, R171). -/
def State.pinEdge (s : State) (r k j : Nat) (rise : Bool) (ts : DWord) : State :=
  let i := 2 * j + b2n rise
  let s := s.onCh r k fun x =>
    { x with seen := Tab.set (0, 0) x.seen i (s.rcyc + 1, ts),
             edges := (if (Tab.get none x.edges i).isSome then x.edges else Tab.set none x.edges i (some ts)) }
  let cfg := s.reg (pgReel r) (offSmp k)
  let x := s.chan r k
  if s.running r k && decide (fld cfg 0 2 = j) then
    if x.smp.arm = (if rise then 2 else 1) then s.hardSync r k 2 ts
    else if x.smp.on && !x.smp.noRs && bit cfg (if rise then 5 else 4)
        && !(bit cfg 7 && bit x.app (fld cfg 2 2) && !bit x.out (fld cfg 2 2)) then s.resync r k
    else s
  else s

/-- A pad takes a new level as the Reels see it: the timestamp is T of the capture edge, which lies four fabric cycles
before the Reel cycle in which the level is first visible (R158). -/
def State.padEdge (s : State) (pad : Nat) (level : Bool) : State :=
  if Tab.get false s.pads pad = level then s
  else
    let c := pad / 32
    let ts : DWord := BitVec.ofNat 64 (s.tAgo (4 + s.tim.cyc % 2))
    let s := { s with pads := Tab.set false s.pads pad level }
    each (List.range 5) (fun e s =>
      let r := 5 * c + e
      if s.reelUp r then
        each (List.range 16) (fun k s => each (List.range 4) (fun j s =>
          if s.padOf r k j = pad then s.pinEdge r k j (level != s.rbit (pgReel r) (0x180 + 4 * k) (8 * j + 7)) ts
          else s) s) s
      else s) s

/-! ### Program memory (R175) -/

/-- A storage word of program memory: classification and corrected words PM(2i) and PM(2i + 1). -/
def ReelSt.pmWord (x : ReelSt) (i : Nat) : Ecc × Word × Word :=
  let y := Tab.get 0 x.pmSynd i
  let d := fixWord (Tab.get 0 x.pm (2 * i + 1) ++ Tab.get 0 x.pm (2 * i)) y
  (synClass y, d.extractLsb' 0 32, d.extractLsb' 32 32)

/-- A storage word of program memory as the current Reel cycle's fetch finds it: a page write of the cycle is seen from the
next one on (R175). -/
def State.pmSeen (s : State) (r i : Nat) : Ecc × Word × Word :=
  match (s.r r).pmOld with
  | some (c, j, lo, hi, y) =>
    if c = s.rcyc + 1 ∧ j = i then
      let d := fixWord (hi ++ lo) y
      (synClass y, d.extractLsb' 0 32, d.extractLsb' 32 32)
    else (s.r r).pmWord i
  | none => (s.r r).pmWord i

/-- A page write of one program word: read-merge-write. -/
def State.pmWrite (s : State) (r w : Nat) (v : Word) : State :=
  let (e, lo, hi) := (s.r r).pmWord (w / 2)
  let s := s.regEcc r e
  if e = .unc then s.flag (pgReel r) 17
  else
    s.onR r fun x =>
      { x with pm := Tab.set 0 (Tab.set 0 x.pm (w / 2 * 2) (if w % 2 = 0 then v else lo)) (w / 2 * 2 + 1)
                 (if w % 2 = 1 then v else hi),
               pmOld := some (s.rcyc + 1, w / 2, Tab.get 0 x.pm (w / 2 * 2), Tab.get 0 x.pm (w / 2 * 2 + 1),
                 Tab.get 0 x.pmSynd (w / 2)),
               pmSynd := Tab.set 0 x.pmSynd (w / 2) 0 }

/-- A page read of one program word. -/
def State.pmRead (s : State) (r w : Nat) : Word × State :=
  let (e, lo, hi) := (s.r r).pmWord (w / 2)
  let s := s.regEcc r e
  if e = .unc then (0, s.flag (pgReel r) 17) else (if w % 2 = 0 then lo else hi, s)

/-! ### Evaluation of an instruction (R166 to R169, R189, R190) -/

/-- What an evaluated instruction does. -/
inductive RRes
  | done (s : State)
  | wait (s : State)
  | jump (s : State) (t : Nat)
  | err (code : Nat)
  | stop (s : State)
  deriving DecidableEq, Repr

/-- The values MODE may take by operation (R167). -/
def reelModes (op : Nat) : Nat :=
  match op with
  | 0x01 | 0x06 | 0x08 | 0x09 | 0x0A | 0x0D | 0x10 | 0x11 | 0x12 => 1
  | 0x04 | 0x05 | 0x0B | 0x14 | 0x15 | 0x16 => 3
  | 0x0C => 2
  | _ => 0

/-- An encoding is legal: the operation is assigned, MODE is listed and every unused field holds 0 (R166 to R169,
R173). CRC of MODE 0 names S and may hold any S (DESIGN CHOICE; log entry 66). -/
def reelLegal (op : Nat) (f : RI) : Bool :=
  let m := f.mode.toNat
  let d := f.d.toNat
  let sr := f.s.toNat
  let p := f.pin.toNat
  let imm := f.imm.toNat
  let noD := decide (d = 0)
  let noS := decide (sr = 0)
  let noP := decide (p = 0)
  let noI := decide (imm = 0)
  (decide (op = 0x0E) || decide (m ≤ reelModes op)) &&
    (match op with
     | 0x00 | 0x06 | 0x0D | 0x15 | 0x16 | 0x17 => noD && noS && noP && noI
     | 0x01 | 0x02 => noS && noP
     | 0x03 => noP && noI
     | 0x04 | 0x05 => if f.pin.getLsbD 1 then noS && decide (p = 2) else noP && noI
     | 0x07 | 0x08 | 0x0B => noD && noS && noI
     | 0x09 | 0x0A => noD && noS && decide (imm < 2)
     | 0x0C => if m = 0 then noD && noS && noP else noD && noP && noI
     | 0x0E =>
       let c := m * 8 + d
       decide (c ≤ 0x16) && (noS || decide (0x0B ≤ c ∧ c ≤ 0x0E)) && noP && decide (imm < 512)
     | 0x0F => noS && noP && decide (imm < 512) && decide (d ≠ 6 ∧ d ≠ 7)
     | 0x10 => noD && noP && noI
     | 0x11 | 0x14 => noS && noP && noI
     | 0x12 =>
       noP && (if m = 0 then decide (imm < 4) else decide (imm < 256 ∧ imm / 4 % 4 = 0))
     | 0x13 => noD && noS && noP && decide (imm < 256)
     | _ => false)

/-- Register codes whose check bits an instruction reads: its sources among X0 to X3 and SR (R167, R229). -/
def regReads (op : Nat) (f : RI) : List Nat :=
  let d := f.d.toNat
  let c := f.s.toNat
  let l := match op with
    | 0x02 | 0x0F => [d]
    | 0x03 | 0x10 => [c]
    | 0x04 | 0x05 => if f.pin.getLsbD 1 then [d] else [d, c]
    | 0x06 => if f.mode = 0 then [4] else []
    | 0x07 | 0x08 => [4]
    | 0x0C => if f.mode = 0 then [] else [c]
    | 0x0E =>
      let n := f.mode.toNat * 8 + d
      if 0x0B ≤ n ∧ n ≤ 0x0E then [c] else if n = 0x13 ∨ n = 0x14 then [4] else []
    | 0x12 => if f.mode = 0 then [d] else [d, c]
    | _ => []
  l.filter fun i => i ≤ 4

/-- A channel register read with its check bits: a correctable error is corrected, an uncorrectable one poisons the
register and is logged (R229, R232). -/
def State.ctxRead (s : State) (r k i : Nat) : State :=
  let x := s.chan r k
  let y := Tab.get 0 x.synd i
  let v : Word := if i = 4 then x.sr else Tab.get 0 x.x i
  let d := fixWord (v.zeroExtend 64) y
  let put := fun (w : Word) (x : Chan) =>
    { x with synd := Tab.set 0 x.synd i 0, sr := (if i = 4 then w else x.sr),
             x := (if i = 4 then x.x else Tab.set 0 x.x i w) }
  if y = 0 then s
  else if synClass y = .unc ∨ 2 ^ 32 ≤ d.toNat then
    (s.onCh r k fun x => { put v x with poison := (if i ∈ x.poison then x.poison else i :: x.poison) }).logDie 0x22
      (w32 (rE r * 256 + k)) 0
  else s.onCh r k (put (d.truncate 32))

/-- Evaluation of the instruction `h` on channel `k`: `inj` says that it was injected. The body sees `issued` as it was
before this evaluation, so that its first issue is known. -/
def State.reelRun (s : State) (r k : Nat) (inj : Bool) (h : Held) (body : Held → State → RRes) : State :=
  let f := riOf h.w
  let h := if h.issued then h else { h with cyc := s.rcyc }
  let g := { h with issued := true }
  let flagI := fun (s : State) => if f.i = 1 then s.flag (pgReel r) k else s
  let next := fun (x : Chan) => if inj then { x with inj := none } else { x with held := none, pc := (x.pc + 1) % 512 }
  if reelLegal (h.w.extractLsb' 27 5).toNat f then
    let s := each (regReads (h.w.extractLsb' 27 5).toNat f) (fun i s => s.ctxRead r k i) s
    match body h s with
    | .done t => flagI (t.onCh r k next)
    | .jump t a => flagI (t.onCh r k fun x => { x with inj := none, held := none, pc := a % 512 })
    | .wait t => t.onCh r k fun x => if inj then { x with inj := some g } else { x with held := some g }
    | .err c => s.chErr r k c
    | .stop t => flagI ((t.onCh r k next).chStop r k)
  else s.chErr r k 1

/-- Channel `k` is served in the current Reel cycle: ROT names one of its slots, and the Reel has evaluated no
instruction in this cycle (R151, R191). -/
def State.slotNow (s : State) (r k : Nat) : Bool :=
  decide (Tab.get 0 s.rot (rR r) ∈ slotsOf k (s.chan r k).size) && decide ((s.r r).evalAt ≠ s.rcyc + 1)

/-- Channel `k` is served and the word it evaluates is `w`: its injected instruction, its latched waiting instruction,
or the word fetched at PC (R175, R189, R190). Any other word is not evaluated, and none outside a served slot.
DESIGN CHOICE; log entry 4. -/
def State.reel (s : State) (r k : Nat) (w : Word) (body : Held → State → RRes) : State :=
  if s.reelUp r && s.running r k && s.slotNow r k then
    let x := s.chan r k
    let go := fun (s : State) => s.onR r fun x => { x with evalAt := s.rcyc + 1 }
    match x.inj with
    | some h => if h.w = w then ((go s).reelRun r k true h body).qev r else s
    | none =>
      match x.held with
      | some h => if h.w = w then ((go s).reelRun r k false h body).qev r else s
      | none =>
        let (e, lo, hi) := s.pmSeen r (x.pc / 2)
        if e = .unc then
          (((((go s).regEcc r e).chErr r k 4).flag (pgReel r) 17).logDie 0x21 (w32 (rE r * 256 + k)) (w32 x.pc)).qev r
        else if (if x.pc % 2 = 0 then lo else hi) = w then
          (((go s).regEcc r e).reelRun r k false { w := w, issued := false, cyc := 0, bnd := false, smp := false } body).qev r
        else s
  else s

/-! ### Channel registers (R168) -/

/-- Value of register code `i`. -/
def State.creg (s : State) (r k i : Nat) : Word :=
  let x := s.chan r k
  match i with
  | 4 => x.sr
  | 5 => x.bc.zeroExtend 32
  | 6 => 0
  | 7 => s.reg (pgReel r) (offSmp k)
  | _ => Tab.get 0 x.x i

/-- A write of register code `i`, poisoned or not: none when SMPCFG refuses it (R160, R168, R232). -/
def State.setCreg (s : State) (r k i : Nat) (v : Word) (bad : Bool) : Option State :=
  let mark := fun (x : Chan) =>
    { x with synd := (if i = 5 then x.synd else Tab.set 0 x.synd i 0),
             poison := (if bad then (if i ∈ x.poison then x.poison else i :: x.poison)
                        else x.poison.filter fun j => j ≠ i) }
  match i with
  | 4 => some (s.onCh r k fun x => mark { x with sr := v })
  | 5 => some (s.onCh r k fun x => mark { x with bc := v.truncate 16 })
  | 6 => some s
  | 7 => s.smpcfg r k v
  | _ => some (s.onCh r k fun x => mark { x with x := Tab.set 0 x.x i v })

/-- BC cleared, and SR with it as a PUSH of MODE 1 leaves them: whole registers replaced, which ends their poison (R232). -/
def Chan.clearBc (x : Chan) : Chan := { x with bc := 0, poison := x.poison.filter fun j => j ≠ 5 }
def Chan.clearSr (x : Chan) : Chan :=
  { x.clearBc with sr := 0, synd := Tab.set 0 x.synd 4 0, poison := x.clearBc.poison.filter fun j => j ≠ 4 }

/-- Register code `i` is poisoned. -/
def State.poisoned (s : State) (r k i : Nat) : Bool := decide (i ∈ (s.chan r k).poison)

/-- Completion with register `i` written. -/
def rdone (o : Option State) : RRes :=
  match o with
  | some t => .done t
  | none => .err 3

/-- SR after a bit enters it, and the bit that leaves (R167). -/
def shiftIn (dir : Bool) (sr : Word) (b : Bool) : Word :=
  if dir then insBit (sr >>> 1) 31 b else insBit (sr <<< 1) 0 b
def bitOut (dir : Bool) (sr : Word) : Bool := if dir then bit sr 0 else bit sr 31

/-- One CRC step of R173 with width `w` and polynomial `p`. -/
def reelCrcBit (w : Nat) (p d : Word) (b : Bool) : Word :=
  let m : Word := w32 (2 ^ w - 1)
  let top := bit d (w - 1) != b
  let d := (d <<< 1) &&& m
  if top then d ^^^ (p &&& m) else d

/-! ### Synchronous start (R193) -/

/-- T at the start of the current Reel cycle. -/
def State.reelT (s : State) : Nat := if s.tim.cyc % 2 = 0 then s.T else s.tAgo 1

/-- A channel that a page write has started in the current Reel cycle, stopped again for the start cycle, which comes before
that write; and the write, made after it (R185, R193). -/
def State.unrun (s : State) (r : Nat) : State × Option (Nat × Word) :=
  match (s.r r).ran with
  | some (c, k, old, v) =>
    if c = s.rcyc + 1 ∧ k < 16 ∧ s.running r k = true then ((s.chStop r k).setReg (pgReel r) (offCfg k) old, some (k, v)) else (s, none)
  | none => (s, none)

/-- The start cycle of region `r`. -/
def State.startCycle (s : State) (rg : Nat) (late : Bool) : State :=
  let pg := pgRegion rg
  let hs := s.rbit pg 0x108 29
  let s := each (List.range 20) (fun i s =>
    let r := 20 * rg + i
    let s := s.setFld (pgReel r) 0x7CC 16 16 0
    if s.reelUp r then
      let mask := s.reg (pgReel r) 0x7CC
      let (s, w) := s.unrun r
      let s := each (below 16 fun k => bit mask k) (fun k s =>
        if s.running r k then s
        else
          let s := s.chStart r k
          if s.running r k then
            let s := s.setBit (pgReel r) 0x7CC (16 + k) true
            if hs then s.hardSync r k 0 (BitVec.ofNat 64 s.reelT) else s
          else s) s
      match w with
      | some (k, v) => s.chcfg r k v
      | none => s
    else s) s
  let s := s.setBit pg 0x108 31 false
  if late then s.setBit pg 0x108 30 true else s

/-- The target of a region's synchronous start. -/
def State.ssTarget (s : State) (rg : Nat) : Nat :=
  (s.reg (pgRegion rg) 0x104).toNat * 2 ^ 32 + (s.reg (pgRegion rg) 0x100).toNat

/-- A write of SSCTL (R193). -/
def State.ssctl (s : State) (rg : Nat) (v : Word) : State :=
  let s := genWrite .region (pgRegion rg) 0x108 v s
  if bit v 31 && decide (s.ssTarget rg ≤ s.reelT) then s.startCycle rg true else s

/-! ### Page hooks of a Reel page (R155, R176, R183) -/

/-- A write to the page of physical Reel `r`. A PINMAP write that changes what a pin reads makes no edge (DESIGN CHOICE; log
entry 66). -/
def reelWrite (m : Master) (r off : Nat) (v : Word) (s : State) : State :=
  let p := pgReel r
  let s :=
    if 0x800 ≤ off then s.pmWrite r ((off - 0x800) / 4) v
    else if 0x080 ≤ off ∧ off < 0x0C0 then s.chcfg r ((off - 0x080) / 4) v
    else if 0x1C0 ≤ off ∧ off < 0x200 then s.smpcfgPage r ((off - 0x1C0) / 4) v
    else if 0x600 ≤ off ∧ off < 0x640 then s.txd m r ((off - 0x600) / 4) v
    else if 0x680 ≤ off ∧ off < 0x6C0 then
      genWrite .reel p (0x680 + 4 * s.owner r ((off - 0x680) / 4)) v s
    else if 0x780 ≤ off ∧ off < 0x7C0 then
      let k := (off - 0x780) / 4
      let s := s.setReg p off v
      if s.running r k && (s.chan r k).inj.isNone then
        s.onCh r k fun x => { x with inj := some { w := v, issued := false, cyc := 0, bnd := false, smp := false } }
      else s.setBit p 0x7C8 k true
    else if off = 0x7C4 then s.qjoin r v
    else genWrite .reel p off v s
  s.qev r

/-- A read of the page of physical Reel `r`: data, response and state. -/
def reelRead (m : Master) (r off : Nat) (peek : Bool) (s : State) : Word × Nat × State :=
  let p := pgReel r
  if 0x800 ≤ off then
    let (v, t) := s.pmRead r ((off - 0x800) / 4)
    (v, 0, t)
  else if 0x0C0 ≤ off ∧ off < 0x100 then (w32 (s.chan r ((off - 0x0C0) / 4)).pc, 0, s)
  else if 0x100 ≤ off ∧ off < 0x140 then
    let x := s.chan r ((off - 0x100) / 4)
    -- an injected instruction that no slot has evaluated does not wait (DEDUCED; log entry 59)
    let w := match x.inj with
      | some h => h.issued
      | none => x.held.isSome
    (insBit (s.reg p off) 31 w, 0, s)
  else if 0x400 ≤ off ∧ off < 0x600 then
    let i := (off - 0x400) % 32 / 4
    let k := (off - 0x400) / 32
    let t := s.ctxRead r k i
    if i < 6 then (t.creg r k i, 0, if peek then s else t) else (0, 0, s)
  else if 0x640 ≤ off ∧ off < 0x680 then
    let (v, e, t) := s.rxd m r ((off - 0x640) / 4) peek
    (v, e, t.qev r)
  else if 0x680 ≤ off ∧ off < 0x6C0 then (s.qstat r ((off - 0x680) / 4), 0, s)
  else if off = 0x7C8 then
    let n := (below 16 fun k => (s.chan r k).inj.isSome).foldl (fun a k => a + 2 ^ k) 0
    (s.reg p off ||| w32 (n * 2 ^ 16), 0, s)
  else
    let (v, t) := genRead .reel p off peek s
    (v, 0, t)

end Sys2Proof.Machine
end

