-- ==== Sys2Proof/Machine/Negative.lean ====
section
/-! DEFINITION. The Negative: checkpoint slots (R290, R291), unit takeover (R295 to R300), Reel takeover (R301, R302)
and faults that are not absorbed (R304). -/

namespace Sys2Proof.Machine

/-! ### Special register values (R43, R55) -/

/-- RSDEPTH. -/
def Spr.rsDepth (x : Spr) : Word := w32 (x.spilled * 2 ^ 16 + x.rs.length)

/-- A special register as MFS returns it. -/
def State.sprVal (s : State) (p n : Nat) : Word :=
  let x := (s.u p).spr
  match n with
  | 0x0 => x.bnk.zeroExtend 32
  | 0x1 => x.dsp
  | 0x2 => x.rsp
  | 0x3 => x.rsDepth
  | 0x4 => x.mh
  | 0x5 => x.ml
  | 0x6 => x.lc
  | 0x7 => x.ls
  | 0x8 => x.le
  | 0x9 => x.estat
  | 0xA => x.cause
  | 0xB => x.info
  | 0xC => x.epc
  | 0xD => x.badaddr
  | 0xE => x.ebase
  | _ => s.coord p

/-! ### Checkpoints (R290, R291) -/

/-- Offsets of the unit page registers that a slot holds from 0x110 on, in slot order. -/
def slotRegs : List Nat :=
  (List.range 32).map (fun i => 0x200 + 4 * i) ++ [0x280, 0x2C0, 0x2C4, 0x2C8]
    ++ (List.range 16).map (fun i => 0x300 + 4 * i) ++ (List.range 32).map (fun i => 0x400 + 4 * i)
    ++ (List.range 16).map (fun i => 0x4C0 + 4 * i) ++ [0x480, 0x484]

/-- The 256 words of a slot for unit `p`, whose state is that at the instruction after the CKPT. -/
def State.slotWords (s : State) (p gen : Nat) : List Word :=
  let x := s.u p
  let rs := x.spr.rs.reverse
  let l := (List.range 32).map x.gr ++ (List.range 15).map (s.sprVal p) ++ [x.pc]
    ++ (List.range 16).map (fun i => (rs[i]?).getD 0) ++ [w32 (b2n x.evt * 2 ^ 8), w32 s.T, w32 (s.T / 2 ^ 32), w32 gen]
    ++ slotRegs.map (s.reg (pgUnit p))
  let l := l ++ List.replicate (255 - l.length) 0
  l ++ [crcWords l]

def offSlot (u : Nat) : Nat := 0x080 + 16 * u

/-- The end of a CKPT of unit `p`, whose instruction has completed. -/
def State.ckptDone (s : State) (p : Nat) : State :=
  let c := cOf p
  let u := s.logU p
  let ng := pgNeg c
  let o := offSlot u
  let b := 1 - s.rfld ng o 29 1
  let gen := (s.rfld ng o 0 16 + 1) % 2 ^ 16
  let l := s.slotWords p gen
  let s := s.onC c fun x =>
    { x with slots := Tab.set [] x.slots (2 * u + b) l,
             slotSynd := Tab.drop (fun i => decide (i / 128 = 2 * u + b)) x.slotSynd }
  let s := s.setReg ng o (w32 (fld (s.reg ng o) 30 2 * 2 ^ 30 + b * 2 ^ 29 + gen) ||| w32 (if b = 1 then 2 ^ 30 else 2 ^ 31))
  let s := (s.setReg ng (o + 4) (w32 s.T)).setReg ng (o + 8) 0
  s.freeReader c u true

/-- A unit reset of logical unit `u` makes its slots invalid: the empty checkpoint (R291). -/
def State.emptyCkpt (s : State) (c u : Nat) : State :=
  (((s.onC c fun x =>
    { x with slots := Tab.set [] (Tab.set [] x.slots (2 * u) []) (2 * u + 1) [],
             slotSynd := Tab.drop (fun i => decide (i / 256 = u)) x.slotSynd }).setReg (pgNeg c) (offSlot u) 0).setReg (pgNeg c) (offSlot u + 8) 0).freeReader c u false

/-! ### Unit takeover (R297 to R299, R304) -/

/-- NGSTAT fields. -/
def State.setNg (s : State) (c lo len v : Nat) : State := s.setFld (pgNeg c) 0x044 lo len v

/-- A unit fault that is not absorbed. -/
def State.refuseUnit (s : State) (c u reason : Nat) : State :=
  (((s.setNg c 29 1 1).setNg c 23 3 reason).flag (pgNeg c) 2).logEv 0x13 (s.coord (s.physU c u)) (w32 (u * 2 ^ 8 + reason)) 0

/-- Word `i` of a slot. -/
def slotAt (l : List Word) (i : Nat) : Word := (l[i]?).getD 0

/-- The unit that takes the state of a slot (R290, R298). -/
def unitOfSlot (l : List Word) : UnitSt :=
  let w := slotAt l
  let x := UnitSt.reset 0
  { x with
    g := (List.range 32).foldl (fun t i => Tab.set 0 t i (w i)) [],
    pc := w 47,
    spr := { bnk := (w 32).truncate 16, dsp := w 33, rsp := w 34, spilled := fld (w 35) 16 14,
             rs := ((List.range (fld (w 35) 0 5)).map fun i => w (48 + i)).reverse,
             mh := w 36, ml := w 37, lc := w 38, ls := w 39, le := w 40, estat := w 41, cause := w 42, info := w 43,
             epc := w 44, badaddr := w 45, ebase := w 46 },
    stat := .run, evt := bit (w 64) 8, replay := true }

/-- Step 5: the route switch. -/
def State.routeSwitch (s : State) (c : Nat) (long : Bool) : State :=
  let u := s.rfld (pgNeg c) 0x044 16 3
  let sp := 9 * c + 8
  let dt := min (s.T - (s.c c).trigT) (2 ^ 32 - 1)
  let s := if long then s.setNg c 27 1 1 else s
  let s := (s.setNg c 20 3 6).setReg (pgNeg c) 0x048 (w32 dt)
  let s := s.onU (9 * c + u) fun x => { x with locked := false }
  let s := (s.onU sp fun x => { x with replay := false, evt := true }).onC c fun x => { x with toPop := [] }
  let s := (s.flag (pgNeg c) 0).logEv 0x11 (s.coord sp) (w32 (s.rfld (pgNeg c) 0x044 4 4)) (w32 dt)
  s.wake sp

/-- Step 4 ends once every returned entry has been popped again and SUPPRESS is 0 (R299). -/
def State.replayEnd (s : State) (c : Nat) : State :=
  let u := s.rfld (pgNeg c) 0x044 16 3
  if s.uphase c = 4 ∧ (s.c c).toPop.isEmpty ∧ s.rfld (pgNeg c) (0x08C + 16 * u) 0 16 = 0 then s.routeSwitch c false
  else s

/-- The retained entries of logical unit `u` return to the heads of their queues (R298 step 3). -/
def State.returnEntries (s : State) (c u : Nat) : State :=
  each (List.range 5) (fun e s => each (List.range 16) (fun k s =>
    let o := 0x200 + 64 * e + 4 * k
    let g := s.reg (pgNeg c) o
    let r := 5 * c + e
    if bit g 31 && decide (fld g 24 3 = u) then
      let l := (s.r r).retq k
      let s := s.onR r fun x => (x.setRx k (l ++ x.rxq k)).setRet k []
      let s := s.onC c fun x => { x with toPop := Tab.set 0 x.toPop (16 * e + k) l.length }
      let s := s.setFld (pgNeg c) o 0 5 0
      (s.setReg (pgCommon c) (0x400 + 64 * e + 4 * k) (s.reg (pgNeg c) (0x400 + 64 * e + 4 * k))).qev r
    else s) s) s

/-- A slot as step 3 reads it: its words corrected, or none where it has not been written whole, a storage word is
uncorrectable or the CRC does not match (R228, R291, R298). -/
def State.slotRead (s : State) (c k : Nat) : Option (List Word) :=
  let x := s.c c
  let l := Tab.get [] x.slots k
  let syn := fun (i : Nat) => Tab.get 0 x.slotSynd (128 * k + i)
  let w := (List.range 128).flatMap fun i =>
    let d := fixWord (slotAt l (2 * i + 1) ++ slotAt l (2 * i)) (syn i)
    [d.extractLsb' 0 32, d.extractLsb' 32 32]
  if l.length = 256 ∧ ((List.range 128).all fun i => decide (synClass (syn i) ≠ .unc)) = true
      ∧ slotAt w 255 = crcWords (w.take 255) then some w
  else none

/-- The control store of a cluster without the copy of unit `u` (R116). -/
def Clu.dropCopy (x : Clu) (u : Nat) : Clu :=
  { x with wcs := Tab.drop (fun k => decide (k / 1024 = u)) x.wcs,
           wcsSynd := Tab.drop (fun k => decide (k / 2048 = u)) x.wcsSynd,
           dt := Tab.drop (fun k => decide (k / 32 = u)) x.dt }

/-- The domain of a unit goes OFF in the course of a takeover, with its page and its copy of the control store. -/
def State.unitOff (s : State) (p : Nat) : State :=
  ((pageReset (pgUnit p) s).setDom p 4).onC (cOf p) fun x => x.dropCopy (uOf p)

/-- Steps 1 to 4 of the takeover of logical unit `u` (R298). -/
def State.takeUnit (s : State) (c u code t0 : Nat) : State :=
  let ng := pgNeg c
  let f := 9 * c + u
  let sp := 9 * c + 8
  let o := offSlot u
  let s := ((((s.setNg c 31 1 1).setNg c 26 1 0).setNg c 20 3 1).setNg c 16 3 u).setNg c 4 4 code
  let s := s.setReg ng (o + 12) (s.reg ng (o + 8))
  let s := each [0, 4, 8, 12] (fun i s => s.setReg ng (0x050 + i) (s.reg (pgUnit f) (0x2A0 + i))) s
  let s := (s.orphan f).withdraw f
  let s := s.onC c fun x => { x with trigT := t0 }
  let sl := s.reg ng o
  let read := s.slotRead c (2 * u + fld sl 29 1)
  let l := read.getD []
  let empty := decide (fld sl 30 2 = 0)
  if !empty && read.isNone then
    ((s.setNg c 31 1 0).setNg c 20 3 7).refuseUnit c u 3
  else
    let s := (s.setReg ng (o + 8) 0).returnEntries c u
    let s := (pageReset (pgUnit sp) s).setDom sp 0
    let s := if empty then
        (s.setU sp { UnitSt.reset s.dev.entry with stat := .run, replay := true }).setNg c 26 1 1
      else
        let s := s.setU sp (unitOfSlot l)
        each (slotRegs.zipIdx) (fun (off, i) s => s.setReg (pgUnit sp) off (slotAt l (68 + i))) s
    let s := s.onU sp fun x => x.setD fun d => { d with uwd := max 1 (s.rfld (pgUnit sp) 0x2C4 0 24) }
    let s := (s.unitOff f).setU f { UnitSt.reset 0 with locked := true }
    ((s.onC c fun x => { x with urepl := some u }).setNg c 20 3 4).replayEnd c

/-- The triggers of one cycle, in ascending unit order (R304). -/
def State.takeGroup (s : State) (c : Nat) (l : List (Nat × Nat × Nat)) : State :=
  if l.isEmpty then s
  else
    let (s, ok) := l.foldl (fun (a : State × List (Nat × Nat × Nat)) t =>
      let s := a.1
      if t.1 = 8 then
        if 2 ≤ s.uphase c ∧ s.uphase c ≤ 4 then
          let u := s.rfld (pgNeg c) 0x044 16 3
          let s := s.refuseUnit c u 4
          let s := ((s.setNg c 20 3 7).unitOff (9 * c + 8)).setU (9 * c + 8) (UnitSt.reset 0)
          (s.onC c fun x => { x with urepl := none, toPop := [] }, a.2)
        else a
      else if s.rbit (pgNeg c) 0x044 31 then (s.refuseUnit c t.1 1, a.2)
      else if !s.rbit (pgNeg c) 0x040 31 then (s.refuseUnit c t.1 2, a.2)
      else (s, a.2 ++ [t])) (s, [])
    match ok with
    | [] => s
    | t :: rest => each rest (fun r s => s.refuseUnit c r.1 5) (s.takeUnit c t.1 t.2.1 t.2.2)

/-- A list of triggers in ascending number. -/
def byNumber (l : List (Nat × Nat × Nat)) : List (Nat × Nat × Nat) :=
  (List.range 9).flatMap fun u => l.filter fun t => decide (t.1 = u)

/-- The cycles of a list of triggers, in their order. -/
def cyclesOf (l : List (Nat × Nat × Nat)) : List Nat :=
  l.foldl (fun a t => if t.2.2 ∈ a then a else a ++ [t.2.2]) []

/-- The unit takeovers of a cluster: register errors found (trigger 0x3), then every trigger that waits.
DEDUCED; log entry 37. -/
def State.takeover (s : State) (c : Nat) (regErr : List (Fin 8)) : State :=
  let s := each regErr (fun u s => s.stopTrigger (s.physU c u.val) 3) s
  let l := (s.c c).trig
  let s := s.onC c fun x => { x with trig := [] }
  each (cyclesOf l) (fun t s => s.takeGroup c (byNumber (l.filter fun e => decide (e.2.2 = t)))) s

/-- Step 5 of a replay that has outlasted 6 µs (R299). -/
def State.replayTimeout (s : State) (c : Nat) : State := if s.uphase c = 4 then s.routeSwitch c true else s

/-! ### Reel takeover (R301, R302, R304) -/

/-- A Reel in reset with an empty page, and the latches of its queues (R235); page accesses that wait for it stay. -/
def State.reelOff (s : State) (r : Nat) : State :=
  pageReset (pgReel r) (each (List.range 16) (fun k s => s.setReg (pgCommon (rC r)) (offLatch r k) 0xFFFFFFFF)
    (s.setR r { ReelSt.reset with pq := (s.r r).pq }))

/-- A Reel fault that is not absorbed: the Reel, or the spare that stands for it, stays in reset. -/
def State.refuseReel (s : State) (c e reason : Nat) : State :=
  (((s.reelOff (s.physR (5 * c + e))).setNg c 28 1 1).flag (pgNeg c) 2).logDie 0x13 (w32 (e * 2 ^ 8 + reason)) 0

/-- The channel context that the spare takes over; a channel that ran restarts with its bit timing stopped and without
pins or armed outputs (R301, R302). -/
def Chan.moved (x : Chan) (ran : Bool) : Chan :=
  if ran then
    { x with held := none, inj := none, out := 0, oe := 0, aout := [], aoe := [], app := 0, smp := x.smp.stop }
  else x

/-- The takeover of Reel `e` by the spare Reel. -/
def State.takeReel (s : State) (c e code t0 : Nat) : State :=
  let ng := pgNeg c
  let f := 5 * c + e
  let sp := 5 * c + 4
  let runs := below 16 fun k => s.running f k
  let x := s.r f
  let y : ReelSt := { x with held := false, ch := (List.range 16).foldl (fun t k =>
    Tab.set Chan.reset t k ((s.chan f k).moved (decide (k ∈ runs)))) [] }
  let old := s.reg (pgReel f)
  let s := (((pageReset (pgReel sp) s).setR sp y).setDom (144 + sp) 0).setReg (pgReel sp) pgEn (old pgEn)
  let s := each (rowsOf .reel) (fun r s => each r.offs (fun off s =>
    s.setReg (pgReel sp) off ((r.reset &&& ~~~r.rw) ||| (old off &&& r.rw))) s) s
  let s := each (List.range 16) (fun k s => s.setReg (pgReel sp) (offSmp k) (old (offSmp k))) s
  let s := each (List.range 16) (fun k s =>
    let a := 64 * e + 4 * k
    let b := 256 + 4 * k
    let s := (s.setReg ng (0x200 + b) (s.reg ng (0x200 + a))).setReg ng (0x400 + b) (s.reg ng (0x400 + a))
    let s := s.setReg (pgCommon c) (0x400 + b) (s.reg (pgCommon c) (0x400 + a))
    s.setFld ng (0x200 + a) 0 5 0) s
  let s := each (List.range 32) (fun i s =>
    if s.rfld (pgXbar c) (0x040 + 4 * i) 0 3 = e then s.setFld (pgXbar c) (0x040 + 4 * i) 0 3 4 else s) s
  let s := ((s.onR f fun x => { x with pq := [] }).reelOff f).onC c fun x =>
    { x with rrepl := some e,
             toPop := x.toPop.foldl (fun t i =>
               Tab.set 0 t (if i.1 / 16 = e then 64 + i.1 % 16 else i.1) i.2) [] }
  let dt := min (s.T - t0) (2 ^ 32 - 1)
  let s := ((((s.setNg c 30 1 1).setNg c 12 2 e).setNg c 8 3 6).setNg c 0 4 code).setReg ng 0x04C (w32 dt)
  let s := each runs (fun k s => s.setBit (pgReel sp) (offCfg k) 31 false) s
  let s := each runs (fun k s => s.chStart sp k) s
  ((s.flag ng 1).logDie 0x12 (w32 (e * 2 ^ 8 + code)) (w32 dt)).qev sp

/-- The spare Reel itself triggers while it takes over for Reel `e`: it goes OFF and counts as used, and Reel `e` stays in
reset (R304). -/
def State.spareFault (s : State) (c e code : Nat) : State :=
  let s := (((s.setNg c 30 1 1).setNg c 12 2 e).setNg c 8 3 7).setNg c 0 4 code
  ((s.reelOff (5 * c + 4)).setDom (144 + 5 * c + 4) 4).refuseReel c e 4

/-- The Reel triggers of one cycle, in ascending order; `bad` says that the spare Reel triggers too. -/
def State.takeReels (s : State) (c : Nat) (l : List (Nat × Nat × Nat)) (bad : Bool) : State :=
  let (s, ok) := l.foldl (fun (a : State × List (Nat × Nat × Nat)) t =>
    if a.1.rbit (pgNeg c) 0x044 30 then (a.1.refuseReel c t.1 1, a.2)
    else if !a.1.rbit (pgNeg c) 0x040 30 then (a.1.refuseReel c t.1 2, a.2)
    else (a.1, a.2 ++ [t])) (s, [])
  match ok with
  | [] => s
  | t :: rest =>
    each rest (fun r s => s.refuseReel c r.1 5)
      (if bad then s.spareFault c t.1 t.2.1 else s.takeReel c t.1 t.2.1 t.2.2)

/-- The Reel takeovers of a cluster: logic mismatches found (trigger 0x1), then every trigger that waits. Number 4 is the
spare Reel: in place, it stands for the Reel it replaces, and otherwise it spoils a takeover that this command runs. -/
def State.reelTakeover (s : State) (c : Nat) (mismatch : List (Fin 5)) : State :=
  let logical := mismatch.filterMap fun e => if e.val = 4 then (s.c c).rrepl else some e.val
  let bad := decide (4 ∈ mismatch) && (s.c c).rrepl.isNone
  let l := logical.foldl (fun l e =>
    if l.any (fun t => decide (t.1 = e)) then l else l ++ [(e, 1, s.T)]) (s.c c).rtrig
  let s := s.onC c fun x => { x with rtrig := [] }
  each (cyclesOf l) (fun t s => s.takeReels c (byNumber (l.filter fun e => decide (e.2.2 = t))) bad) s

/-! ### The Negative page -/

/-- A takeover of logical unit `u` is in progress: a further trigger of `u` is ignored (R297). -/
def State.takingOver (s : State) (c u : Nat) : Bool :=
  decide (1 ≤ s.uphase c ∧ s.uphase c ≤ 5 ∧ s.rfld (pgNeg c) 0x044 16 3 = u)

/-- A write to the Negative page (R292, R293). -/
def negWrite (c off : Nat) (v : Word) (s : State) : State :=
  if off = 0x040 then
    let s := genWrite .neg (pgNeg c) off v s
    let u := fld v 8 3
    let e := fld v 0 2
    let s := if bit v 28 && !s.takingOver c u then s.stopTrigger (s.physU c u) 5 else s
    if bit v 27 then
      s.onC c fun x => if x.rtrig.any (fun t => decide (t.1 = e)) then x
        else { x with rtrig := x.rtrig ++ [(e, 5, s.T)] }
    else s
  else if 0x200 ≤ off ∧ off < 0x340 then s.ngret c ((off - 0x200) / 64) ((off - 0x200) % 64 / 4) v
  else genWrite .neg (pgNeg c) off v s

end Sys2Proof.Machine
end

