-- ==== Sys2Proof/Machine/Dma.lean ====
section
/-! DEFINITION. The DMA engines (R274, R275). -/

namespace Sys2Proof.Machine

/-- What a DMA address names. -/
inductive DTgt
  | mem (k : Nat) (busy : Bool)
  | far (die r off : Nat)
  | rxd (r k : Nat)
  | txd (r k : Nat)
  | stop (code : Nat)
  deriving DecidableEq, Repr

/-- Region memory as a DMA target. -/
def State.dmaReg (s : State) (r off : Nat) : DTgt :=
  if s.regUp r then .mem (regKey r off) (s.segBusy r off) else .stop 4

/-- The target of address `a` for a channel of cluster `c` (R60, R274). -/
def State.dmaTgt (s : State) (c a : Nat) : DTgt :=
  if a < 0x80000 then .mem (bankKey c a) (s.bankBusy c (a / 0x10000))
  else if 0x01000000 ≤ a ∧ a < 0x01200000 then s.dmaReg (c / 4) (a - 0x01000000)
  else if 0x02000000 ≤ a ∧ a < 0x02800000 then s.dmaReg ((a - 0x02000000) / 0x200000) (a % 0x200000)
  else if 0x03000000 ≤ a ∧ a < 0x03200000 then
    let t := 4 * (c / 4) + (a - 0x03000000) / 0x80000
    let o := a % 0x80000
    if s.cluUp t then .mem (bankKey t o) (s.bankBusy t (o / 0x10000)) else .stop 4
  else if 0x04000000 ≤ a ∧ a < 0x08000000 then
    let pg := (a - 0x04000000) / 0x1000
    let off := a % 0x1000
    if 0x300 + 5 * c ≤ pg ∧ pg < 0x305 + 5 * c then
      let r := s.physR (pg - 0x300)
      if 0x640 ≤ off ∧ off < 0x680 then .rxd r ((off - 0x640) / 4)
      else if 0x600 ≤ off ∧ off < 0x640 then .txd r ((off - 0x600) / 4)
      else .stop 7
    else .stop 7
  else if 0x10000000 ≤ a ∧ a < 0x12000000 then
    let d := (a - 0x10000000) / 0x800000
    let r := a / 0x200000 % 4
    if d = s.die then s.dmaReg r (a % 0x200000)
    else if d ≤ s.pkgMax ∧ (s.l (s.portTo d)).up then .far d r (a % 0x200000)
    else .stop 5
  else if 0x80000000 ≤ a then .stop 7
  else .stop 1

/-- Result of a phase of a burst: a wait, an error with its code and address, or the data (newest first). -/
inductive DRes
  | wait
  | err (code addr : Nat) (s : State)
  | ok (l : List Nat) (s : State)
  deriving DecidableEq, Repr

/-- The read phase at memory or a queue: `n` transfers of `w` bytes from address `a` on, or from the queue register `a`. -/
def dmaReads (c : Nat) (q : Bool) (w : Nat) : Nat → Nat → List Nat → State → DRes
  | 0, _, l, s => .ok l s
  | n + 1, a, l, s =>
    match s.dmaTgt c a with
    | .stop code => .err code a s
    | .mem k busy =>
      if q then .err 7 a s
      else if busy then .wait
      else
        let (e, v, s) := s.memRead k w
        if e = .unc then .err 3 a s else dmaReads c q w n ((a + w) % 2 ^ 32) (v :: l) s
    | .far _ _ _ => .err 7 a s
    | .rxd r k =>
      if q then
        let (v, e, s) := s.rxd .mgmt r k false
        if e = 3 then .err 3 a (s.qev r) else dmaReads c q w n a (v.toNat :: l) (s.qev r)
      else .err 7 a s
    | .txd _ _ => .err 7 a s

/-- The write phase at memory or a queue. `i` counts the transfers; `meets` lists those that meet a port-A write. -/
def dmaWrites (c : Nat) (q : Bool) (w : Nat) (meets : List Nat) : List Nat → Nat → Nat → State → DRes
  | [], _, _, s => .ok [] s
  | v :: t, i, a, s =>
    match s.dmaTgt c a with
    | .stop code => .err code a s
    | .mem k busy =>
      if q then .err 7 a s
      else if busy then .wait
      else if k < 0x800000 ∧ (i ∈ meets ∨ s.meetsA k = true) then
        dmaWrites c q w meets t (i + 1) ((a + w) % 2 ^ 32) (s.meetWrite k w v)
      else if w = 8 then
        dmaWrites c q w meets t (i + 1) ((a + w) % 2 ^ 32) (s.setWord8 k (BitVec.ofNat 64 v))
      else
        let (e, s) := s.memMerge k w v
        if e = .unc then .err 3 a s else dmaWrites c q w meets t (i + 1) ((a + w) % 2 ^ 32) s
    | .far _ _ _ => .err 7 a s
    | .txd r k =>
      if q then dmaWrites c q w meets t (i + 1) a ((s.txd .mgmt r k (w32 v)).qev r) else .err 7 a s
    | .rxd _ _ => .err 7 a s

/-! ### Channels -/

def offDma (n : Nat) : Nat := 0x100 + 32 * n

/-- Channel `n` stops on an error. -/
def State.dmaErr (s : State) (c n code addr : Nat) : State :=
  let p := pgDma c
  let o := offDma n
  ((((s.setBit p (o + 0x0C) 31 false).setReg p (o + 0x10)
    ((s.reg p (o + 0x10) &&& 0x80000000) ||| w32 (2 ^ 30 + code))).setReg p (o + 0x14) (w32 addr))).flag p (8 + n)

/-- Channel `n` completes. -/
def State.dmaDone (s : State) (c n : Nat) : State :=
  ((s.setBit (pgDma c) (offDma n + 0x0C) 31 false).setBit (pgDma c) (offDma n + 0x10) 31 true).flag (pgDma c) n

/-- The start checks of R275. -/
def State.dmaStart (s : State) (c n : Nat) : State :=
  let p := pgDma c
  let o := offDma n
  let src := (s.reg p o).toNat
  let dst := (s.reg p (o + 4)).toNat
  let ctl := s.reg p (o + 0x0C)
  let sq := bit ctl 30
  let dq := bit ctl 29
  let w := if sq || dq then 4 else 8
  let isRx := match s.dmaTgt c src with
    | .rxd _ _ => true
    | _ => false
  let isTx := match s.dmaTgt c dst with
    | .txd _ _ => true
    | _ => false
  if s.rfld p (o + 8) 0 24 = 0 then s.dmaDone c n
  else if sq && !(isRx && decide (src % 4 = 0)) then s.dmaErr c n 6 src
  else if dq && !(isTx && decide (dst % 4 = 0)) then s.dmaErr c n 6 dst
  else if !sq && decide (src % w ≠ 0) then s.dmaErr c n 2 src
  else if !dq && decide (dst % w ≠ 0) then s.dmaErr c n 2 dst
  else s

/-- A write of DCTLn (R275). -/
def State.dctl (s : State) (c n : Nat) (v : Word) : State :=
  let was := s.rbit (pgDma c) (offDma n + 0x0C) 31
  let s := genWrite .dma (pgDma c) (offDma n + 0x0C) v s
  if bit v 31 && !was then s.dmaStart c n else s

/-- The burst in progress of a channel. -/
def State.dst (s : State) (c n : Nat) : DmaSt := Tab.get DmaSt.reset (s.c c).dma n
def State.setDst (s : State) (c n : Nat) (d : DmaSt) : State :=
  s.onC c fun x => { x with dma := Tab.set DmaSt.reset x.dma n d }

/-- Requester number of a channel on the die links. -/
def dmaKey (c n : Nat) : Nat := 144 + 8 * c + n

/-- SRC of the flits of a requester (R414). -/
def flitSrc (k : Nat) : BitVec 8 := if k < 144 then BitVec.ofNat 8 k else Config.dmaSrc (k - 144)

/-- The resource that a DMA access to memory key `k` requests and the channel's master number there: port B of a bank, in its
own cluster under the channel's number and elsewhere through the region switch, or a region memory port (R265). -/
def dmaPort (c n k : Nat) : Nat × Nat :=
  if k < 0x800000 then
    (arbB (k / 0x80000) (k % 0x80000 / 0x10000), if k / 0x80000 = c then 9 + n else 18)
  else
    let r := (k - 0x800000) / 0x200000
    (arbM r, if c / 4 = r then 0x24 + c % 4 else 0x2B)

/-- A channel waits for memory: at a bank each cycle is a conflict cycle (R269). -/
def State.dmaWait (s : State) (c n k : Nat) : State :=
  if k < 0x800000 then s.conflict (k / 0x80000) (k % 0x80000 / 0x10000) (dmaPort c n k).2 else s

/-- The key and wait of a memory target. -/
def DTgt.memory : DTgt → Option (Nat × Bool)
  | .mem k busy => some (k, busy)
  | _ => none

/-- The die-link requests of requester `k` whose responses nobody waits for any longer: their KIND is marked by + 16. -/
def forget (k : Nat) (l : List (Nat × Nat)) : List (Nat × Nat) :=
  l.map fun q => if q.1 = k then (k, q.2 % 16 + 16) else q

/-- The burst ends on an error: its reads are discarded, and the registers show the completed bursts (R275). Nothing waits
any longer for its die-link requests. -/
def State.dmaStop (s : State) (c n code addr : Nat) : State :=
  let s := (s.setDst c n DmaSt.reset).dmaErr c n code addr
  each [0, 1, 2] (fun j s => s.setL j { s.l j with out := forget (dmaKey c n) (s.l j).out }) s

/-- A phase of the burst sends its requests to another die: one flit for each transfer of `w` bytes, with the data of a
write. -/
def State.dmaSend (s : State) (c n kind d w : Nat) (l : List Nat) (a : Nat) : State :=
  let j := s.portTo d
  let s := each (l.zipIdx) (fun (v, i) s =>
    let o := (a + i * w) % 0x200000
    let f : Flit := ⟨flitSrc (dmaKey c n), BitVec.ofNat 2 ((a + i * w) / 0x200000 % 4), BitVec.ofNat 21 o,
      BitVec.ofNat 8 ((2 ^ w - 1) * 2 ^ (o % 8)), 0,
      if kind = 1 then 0 else BitVec.ofNat 64 (v * 2 ^ (8 * (o % 8))), 0⟩
    let s := s.sendFlit j kind f
    s.setL j { s.l j with out := (s.l j).out ++ [(dmaKey c n, kind)] }) s
  s.setDst c n { s.dst c n with fly := l.length }

/-- Width of a channel's transfers in bytes, and whether its source and its destination are queues (R275). -/
def State.dmaForm (s : State) (c n : Nat) : Nat × Bool × Bool :=
  let ctl := s.reg (pgDma c) (offDma n + 0x0C)
  (if bit ctl 30 || bit ctl 29 then 4 else 8, bit ctl 30, bit ctl 29)

/-- The end of a burst: the registers advance (R275). -/
def State.dmaEnd (s : State) (c n : Nat) : State :=
  let p := pgDma c
  let o := offDma n
  let (w, sq, dq) := s.dmaForm c n
  let t := (s.dst c n).n
  let src := (s.reg p o).toNat
  let dst := (s.reg p (o + 4)).toNat
  let cnt := s.rfld p (o + 8) 0 24
  let s := s.setDst c n DmaSt.reset
  let s := (s.setReg p o (w32 (if sq then src else src + t * w))).setReg p (o + 4) (w32 (if dq then dst else dst + t * w))
  let s := s.setFld p (o + 8) 0 24 (cnt - t)
  if cnt - t = 0 then s.dmaDone c n else s

/-- The memory keys, each with its wait, of a phase of `n` transfers of `w` bytes from address `a` on. -/
def State.dmaKeys (s : State) (c w n a : Nat) : List (Nat × Bool) :=
  (List.range n).filterMap fun i => (s.dmaTgt c ((a + i * w) % 2 ^ 32)).memory

/-- The first of a phase's memory keys that its port cannot serve in this cycle: the memory is being cleared or tested,
another master has the port, or an atomic the word (R266, R268, R269). -/
def State.dmaBlock (s : State) (c n : Nat) (l : List (Nat × Bool)) : Option Nat :=
  (l.find? fun q => q.2 || !s.grants (dmaPort c n q.1).1 (dmaPort c n q.1).2 q.1).map Prod.fst

/-- The beats of a phase at the ports it reaches (R270). -/
def dmaBeats (c n : Nat) (l : List (Nat × Bool)) : List (Nat × Nat) := l.map fun q => dmaPort c n q.1

/-- The clusters' clocks run: a channel of cluster `c` goes on. -/
def State.dmaRuns (s : State) (c : Nat) : Bool := s.cluUp c && s.started

/-- A phase that crosses the fabric takes the uplink of its region and sends its requests, or waits for it. -/
def State.dmaCross (s : State) (c n kind x w : Nat) (l : List Nat) (a : Nat) : State :=
  if s.grants (arbU (c / 4)) (0x24 + c % 4) 0 then
    (s.take (arbU (c / 4)) (0x24 + c % 4) l.length).dmaSend c n kind x w l a
  else s

/-- The write phase goes on: the destination is requested only now that the reads are in the buffer (R271). -/
def State.dmaPut (s : State) (c n : Nat) : State :=
  let (w, _, dq) := s.dmaForm c n
  let d := s.dst c n
  let a := (s.reg (pgDma c) (offDma n + 4)).toNat
  let l := s.dmaKeys c w d.n a
  if d.fly ≠ 0 || !s.dmaRuns c then s
  else
    match s.dmaTgt c a with
    | .far x _ _ => s.dmaCross c n 2 x w d.buf a
    | tg =>
      match s.dmaBlock c n l with
      | some k => s.dmaWait c n k
      | none =>
        let room := match tg with
          | .txd r q => s.cap r q - ((s.r r).txq (s.owner r q)).length
          | _ => 64
        if room < d.n then s
        else
          match dmaWrites c dq w d.meets d.buf 0 a s with
          | .wait => s
          | .err code b t => t.dmaStop c n code b
          | .ok _ t => (t.takeAll (dmaBeats c n l)).dmaEnd c n

/-- The write phase follows the read phase, whose beats are `l`; where it has to wait, the source grant has been dropped
(R271). -/
def State.dmaTurn (s : State) (c n : Nat) (l : List (Nat × Nat)) : State :=
  let t := s.dmaPut c n
  if (t.dst c n).n = 0 then t else (s.dropReq l).dmaPut c n

/-- The burst in progress goes on: its read phase, then its write phase (R271). A queue word popped may be the last that a
takeover returned (R299). -/
def State.dmaGo (s : State) (c n : Nat) : State :=
  let (w, sq, _) := s.dmaForm c n
  let d := s.dst c n
  let a := (s.reg (pgDma c) (offDma n)).toNat
  let l := s.dmaKeys c w d.n a
  if decide (d.n = 0 ∨ d.fly ≠ 0) || !s.dmaRuns c then s
  else if d.wr then s.dmaPut c n
  else
    match s.dmaTgt c a with
    | .far x _ _ => s.dmaCross c n 1 x w (List.replicate d.n 0) a
    | _ =>
      match s.dmaBlock c n l with
      | some k => s.dmaWait c n k
      | none =>
        match dmaReads c sq w d.n a [] s with
        | .wait => s
        | .err code b t => (if sq then t.replayEnd c else t).dmaStop c n code b
        | .ok v t =>
          (((if sq then t.replayEnd c else t).takeAll (dmaBeats c n l)).setDst c n
            { d with buf := v.reverse, wr := true }).dmaTurn c n (dmaBeats c n l)

/-- Transfers of `w` bytes from address `a` on before the end of the die that it names in the die window. -/
def dieRoom (w a : Nat) : Nat := if 0x10000000 ≤ a ∧ a < 0x12000000 then (0x800000 - a % 0x800000 + w - 1) / w else 64

/-- One burst of a running channel begins, unless one is in progress; it ends at the end of a die (R271, R275).
DESIGN CHOICE; log entry 52. -/
def State.dmaBurst (s : State) (c n : Nat) (meets : List Nat) : State :=
  let p := pgDma c
  let o := offDma n
  let ctl := s.reg p (o + 0x0C)
  if s.dmaRuns c && bit ctl 31 && decide ((s.dst c n).n = 0) then
    let avail := match bit ctl 30, s.dmaTgt c (s.reg p o).toNat with
      | true, .rxd r k => ((s.r r).rxq (s.owner r k)).length
      | _, _ => 64
    let room := match bit ctl 29, s.dmaTgt c (s.reg p (o + 4)).toNat with
      | true, .txd r k => s.cap r k - ((s.r r).txq (s.owner r k)).length
      | _, _ => 64
    let w := (s.dmaForm c n).1
    let die := min (if bit ctl 30 then 64 else dieRoom w (s.reg p o).toNat)
      (if bit ctl 29 then 64 else dieRoom w (s.reg p (o + 4)).toNat)
    let t := min (min (fld ctl 8 6 + 1) (s.rfld p (o + 8) 0 24)) (min (min avail room) die)
    if t = 0 then s
    else (s.setDst c n { n := t, meets := meets, buf := [], wr := false, fly := 0 }).dmaGo c n
  else s

/-- The response to the oldest die-link request of a channel: data of a read, or the end of a write; RESP 1 and 2 stop the
channel (R37, R275, R414). -/
def State.dmaAnswer (s : State) (k : Nat) (resp : Nat) (data : DWord) : State :=
  let c := (k - 144) / 8
  let n := (k - 144) % 8
  let (w, _, _) := s.dmaForm c n
  let d := s.dst c n
  if d.fly = 0 then s
  else
    let i := d.n - d.fly
    let a := ((s.reg (pgDma c) (offDma n + (if d.wr then 4 else 0))).toNat + i * w) % 2 ^ 32
    if resp = 1 then s.dmaStop c n 4 a
    else if resp = 2 then s.dmaStop c n 3 a
    else if d.wr then
      let s := s.setDst c n { d with fly := d.fly - 1 }
      if d.fly = 1 then s.dmaEnd c n else s
    else
      let v := data.toNat / 2 ^ (8 * (a % 8)) % 2 ^ (8 * w)
      let s := s.setDst c n { d with fly := d.fly - 1, buf := d.buf ++ [v], wr := decide (d.fly = 1) }
      if d.fly = 1 then s.dmaPut c n else s

/-- A die-link request of a channel is lost with its link (R36). -/
def State.dmaLost (s : State) (k : Nat) : State :=
  let c := (k - 144) / 8
  let n := (k - 144) % 8
  let (w, _, _) := s.dmaForm c n
  let d := s.dst c n
  if d.fly = 0 then s
  else
    s.dmaStop c n 5 (((s.reg (pgDma c) (offDma n + (if d.wr then 4 else 0))).toNat + (d.n - d.fly) * w) % 2 ^ 32)

end Sys2Proof.Machine
end

