-- ==== Sys2Proof/Machine/Lists.lean ====
section
/-! DEFINITION. Table entries of the frame path stages (R205, R206), and the time-driven lists of the gate scheduler, the
stream gates and the region schedules (R212, R218, R255 to R257). -/

namespace Sys2Proof.Machine

/-! ### Table entries -/

/-- Key of word `w` of entry `idx` of the table of page 0x020 + `st`. -/
def tkey (st idx w : Nat) : Nat := (st * 0x10000 + idx) * 32 + w

def State.tw (s : State) (st idx w : Nat) : Word := Tab.get 0 s.tbl (tkey st idx w)
def State.setTw (s : State) (st idx w : Nat) (v : Word) : State :=
  { s with tbl := Tab.set 0 s.tbl (tkey st idx w) v }

/-- Words of entry `idx` of a table, or none for an index outside the table (R205). -/
def tblWords (st idx : Nat) : Option Nat :=
  match st with
  | 1 => if idx < 1024 then some 20 else none
  | 2 => if idx < 512 then some 2 else none
  | 3 => if idx < 0x4000 then some 1 else if idx < 0x4080 then some 8 else none
  | 4 => if idx < 512 then some 4 else none
  | 6 => if idx < 256 then some 2 else none
  | 7 => if idx < 128 then some 2 else none
  | 8 => if idx < 0x2000 then some 1 else if idx < 0x2010 then some 8 else none
  | _ => none

/-- RW bits of word `w` of an entry (R207, R210 to R213, R215, R217, R218). -/
def tblMask (st idx w : Nat) : Word :=
  match st with
  | 1 =>
    if w = 7 ∨ w = 15 then 0x0FFF3F1F
    else if w = 16 then 0xFFFFCFFF
    else if w = 18 then 7
    else if w = 19 then 0
    else 0xFFFFFFFF
  | 2 => if w = 0 then 0xC0003FFF else 0x807F81FF
  | 3 =>
    if idx < 0x4000 then 0xFFFFFFFF else if w = 0 then 0x900001FF else if w < 5 then 0xFFFFFFFF else 0
  | 4 => if w = 3 then 0xC0FFFFFF else 0xFFFFFFFF
  | 6 => 0xFFFF
  | 7 => 0xFFFFFFFF
  | 8 =>
    if idx < 0x2000 then 0xFFFFFFFF else if w = 0 then 0x800001FF else if w < 5 then 0xFFFFFFFF else 0
  | _ => 0

/-! ### Lists -/

/-- Number of a list: gates 0 to 127, ports 128 to 143, regions 144 to 147. -/
def listNo : ListId → Nat
  | .gate g => g.val
  | .port i => 128 + i.val
  | .region r => 144 + r.val

/-- Rows a list can hold (R212, R256). -/
def listMax : ListId → Nat
  | .port _ => 256
  | _ => 64

/-- Word `w` of the schedule parameters, or RSCTL to RSOBASEH, which stand in the same order. -/
def State.lpar (s : State) (l : ListId) (w : Nat) : Word :=
  match l with
  | .gate g => s.tw 3 (0x4000 + g.val) w
  | .port i => s.tw 8 (0x2000 + i.val) w
  | .region r => s.reg (pgRegion r.val) (0x200 + 4 * w)
def State.setLpar (s : State) (l : ListId) (w : Nat) (v : Word) : State :=
  match l with
  | .gate g => s.setTw 3 (0x4000 + g.val) w v
  | .port i => s.setTw 8 (0x2000 + i.val) w v
  | .region r => s.setReg (pgRegion r.val) (0x200 + 4 * w) v

/-- Row `j` of the operational or administrative list: word 0 and word 1 (0 but for regions). -/
def State.lrow (s : State) (l : ListId) (oper : Bool) (j : Nat) : Word × Word :=
  match l with
  | .gate g => (s.tw 3 (b2n oper * 0x2000 + g.val * 64 + j) 0, 0)
  | .port i => (s.tw 8 (b2n oper * 0x1000 + i.val * 256 + j) 0, 0)
  | .region r =>
    let o := (if oper then 0x600 else 0x400) + 8 * j
    (s.reg (pgRegion r.val) o, s.reg (pgRegion r.val) (o + 4))
def State.setLrow (s : State) (l : ListId) (oper : Bool) (j : Nat) (v : Word × Word) : State :=
  match l with
  | .gate g => s.setTw 3 (b2n oper * 0x2000 + g.val * 64 + j) 0 v.1
  | .port i => s.setTw 8 (b2n oper * 0x1000 + i.val * 256 + j) 0 v.1
  | .region r =>
    let o := (if oper then 0x600 else 0x400) + 8 * j
    (s.setReg (pgRegion r.val) o v.1).setReg (pgRegion r.val) (o + 4) v.2

/-- INTERVAL of a row (R211, R218, R256). -/
def rowTime (l : ListId) (v : Word × Word) : Nat :=
  match l with
  | .port _ => fld v.1 0 21
  | _ => fld v.1 0 27

/-- What a row puts in force: its word, or the owners of a region row. -/
def rowAct (l : ListId) (v : Word × Word) : Word :=
  match l with
  | .region _ => v.2
  | _ => v.1

/-- A row inside ADMINLEN is acceptable (R212, R257). -/
def rowOk (l : ListId) (v : Word × Word) : Bool :=
  decide (rowTime l v ≠ 0) &&
    (match l with
     | .gate _ => true
     | .port _ => decide (fld v.1 29 3 ≤ 2)
     | .region _ => [fld v.2 0 6, fld v.2 8 6].all fun o => decide (¬ (0x28 ≤ o ∧ o ≤ 0x3E)))

def State.sched (s : State) (l : ListId) : Sched := Tab.get Sched.reset s.fp.lists (listNo l)
def State.setSched (s : State) (l : ListId) (x : Sched) : State :=
  { s with fp := { s.fp with lists := Tab.set Sched.reset s.fp.lists (listNo l) x } }

def State.lEn (s : State) (l : ListId) : Bool := bit (s.lpar l 0) 31
def State.lAdmin (s : State) (l : ListId) : Nat := fld (s.lpar l 0) 0 9
def State.lOper (s : State) (l : ListId) : Nat := fld (s.lpar l 0) 16 9
def State.lCycle (s : State) (l : ListId) : Nat := (s.lpar l 1).toNat
def State.lBase (s : State) (l : ListId) : Nat := (s.lpar l 4).toNat * 2 ^ 32 + (s.lpar l 3).toNat
def State.lOcycle (s : State) (l : ListId) : Nat := (s.lpar l 5).toNat
def State.lObase (s : State) (l : ListId) : Nat := (s.lpar l 7).toNat * 2 ^ 32 + (s.lpar l 6).toNat

/-- The operational list is in force. -/
def State.lRuns (s : State) (l : ListId) : Bool :=
  s.lEn l && decide (s.lOper l ≠ 0) && decide (s.lOcycle l ≠ 0)

/-- Position of time `t` in the operational cycle (R255). -/
def State.lPhase (s : State) (l : ListId) (t : Nat) : Nat :=
  (((t : Int) - (s.lObase l : Int)) % (s.lOcycle l : Int)).toNat

/-- The time of the cycle start that a stretched cycle passes over, when `t` lies in the stretch (R212). -/
def State.lStretch (s : State) (l : ListId) (t : Nat) : Option Nat :=
  let x := s.sched l
  match x.stretch, x.pend with
  | true, some c =>
    let b := c - s.lPhase l c
    if b ≤ t ∧ t < c then some b else none
  | _, _ => none

/-- Rows of the operational list as interval and action. -/
def State.lrows (s : State) (l : ListId) : List (Nat × Word) :=
  (List.range (min (s.lOper l) (listMax l))).map fun j => (rowTime l (s.lrow l true j), rowAct l (s.lrow l true j))

/-- Rows as half-open spans of the cycle: start, end, action; the last row holds until the cycle ends, and the cycle cuts
the others (R212). -/
def spans (cyc : Nat) : Nat → List (Nat × Word) → List (Nat × Nat × Word)
  | _, [] => []
  | a, (i, w) :: t =>
    match t with
    | [] => [(a, cyc, w)]
    | _ :: _ => (a, min (a + i) cyc, w) :: spans cyc (a + i) t

def State.lspans (s : State) (l : ListId) : List (Nat × Nat × Word) := spans (s.lOcycle l) 0 (s.lrows l)

/-- The row in force at time `t`: its number and action (R255). -/
def State.curRow (s : State) (l : ListId) (t : Nat) : Option (Nat × Word) :=
  if s.lRuns l then
    let sp := s.lspans l
    let p := s.lPhase l t
    let i := if (s.lStretch l t).isSome then sp.length - 1
      else (sp.findIdx? fun e => decide (e.1 ≤ p ∧ p < e.2.1)).getD (sp.length - 1)
    (sp[i]?).map fun e => (i, e.2.2)
  else none

/-- A request that the administrative list become operational: PENDING and the change time, or none when the check
refuses it (R212). -/
def State.listChange (s : State) (l : ListId) : Option State :=
  let n := s.lAdmin l
  let c := s.lCycle l
  if 1 ≤ n ∧ n ≤ (listMax l) ∧ 32 ≤ c ∧ (List.range n).all (fun j => rowOk l (s.lrow l false j)) = true then
    let now := s.T
    let b := s.lBase l
    let t := if now ≤ b then b else b + (now - b + c - 1) / c * c
    let ph := s.lPhase l t
    let st := s.lRuns l && decide (ph ≠ 0 ∧ ph ≤ (s.lpar l 2).toNat ∧ now < t - ph)
    some ((s.setLpar l 0 (insBit (s.lpar l 0) 29 true)).setSched l
      { pend := some t, stretch := st, row := (s.sched l).row })
  else none

/-- The lists swap at the change time (R212). DEDUCED; log entry 33. -/
def State.listSwap (s : State) (l : ListId) : State :=
  match (s.sched l).pend with
  | some t =>
    if t ≤ s.T then
      let s := each (List.range (listMax l)) (fun j s =>
        (s.setLrow l true j (s.lrow l false j)).setLrow l false j (s.lrow l true j)) s
      let s := ((s.setLpar l 5 (s.lpar l 1)).setLpar l 6 (s.lpar l 3)).setLpar l 7 (s.lpar l 4)
      let s := s.setLpar l 0 (insBit (ins (s.lpar l 0) 16 9 (s.lAdmin l)) 29 false)
      s.setSched l { pend := none, stretch := false, row := if s.lRuns l then some 0 else none }
    else s
  | none => s

/-- The row in force taken as the current row (R255). -/
def State.rowChange (s : State) (l : ListId) : State :=
  s.setSched l { s.sched l with row := (s.curRow l s.T).map Prod.fst }

/-! ### Gates of a frame port (R216 to R218) -/

/-- Gate `t` of port `i` is open at time `x`. -/
def State.gateOpen (s : State) (i : Fin 16) (t x : Nat) : Bool :=
  match s.curRow (.port i) x with
  | none => true
  | some (_, w) => bit w (21 + t)

/-- A SetAndHoldMAC row is in force. -/
def State.holdMac (s : State) (i : Fin 16) (x : Nat) : Bool :=
  match s.curRow (.port i) x with
  | none => false
  | some (_, w) => decide (fld w 29 3 = 1)

/-- Time from `x` to the close of gate `t`, taken from the operational list; none for a gate that stays open through the
whole cycle. -/
def State.closeIn (s : State) (i : Fin 16) (t x : Nat) : Option Nat :=
  let l : ListId := .port i
  if s.lRuns l then
    let sp := (s.lspans l).filter fun e => decide (e.1 < e.2.1)
    let shut := fun (e : Nat × Nat × Word) => !bit e.2.2 (21 + t)
    let p := s.lPhase l x
    let rest := match s.lStretch l x, (s.sched l).pend with
      | some _, some c => c - x
      | _, _ => s.lOcycle l - p
    let here := if (s.lStretch l x).isSome then none else sp.find? fun e => shut e && decide (p < e.2.1)
    match here with
    | some e => some (e.1 - p)
    | none => (sp.find? shut).map fun e => rest + e.1
  else none

/-- ns for which gate `t` is open in the first `p` ns of a cycle. -/
def openIn (sp : List (Nat × Nat × Word)) (t p : Nat) : Nat :=
  sp.foldl (fun a e => if bit e.2.2 (21 + t) then a + (min e.2.1 p - min e.1 p) else a) 0

/-- ns for which gate `t` of port `i` is open from time `a` to time `b` under the operational list. -/
def State.openNs (s : State) (i : Fin 16) (t a b : Nat) : Nat :=
  let l : ListId := .port i
  if s.lRuns l then
    let sp := s.lspans l
    let c := s.lOcycle l
    let o := s.lObase l % c
    let f := fun (x : Nat) => (x + c - o) / c * openIn sp t c + openIn sp t ((x + c - o) % c)
    match (s.sched l).pend, s.lStretch l b with
    | some _, some st =>
      let last := match sp.getLast? with
        | some e => bit e.2.2 (21 + t)
        | none => true
      (f (max a st) - f a) + (if last then b - max a st else 0)
    | _, _ => f b - f a
  else b - a

/-! ### Region schedule registers (R256, R257) -/

/-- A write of RSCTL. -/
def State.rsctl (s : State) (r : RegionIx) (v : Word) : State :=
  let s := genWrite .region (pgRegion r.val) 0x200 v s
  if bit v 30 then
    match s.listChange (.region r) with
    | some t => t
    | none => s.setBit (pgRegion r.val) 0x200 28 true
  else s

/-- A write to a region page. -/
def regionWrite (r : RegionIx) (off : Nat) (v : Word) (s : State) : State :=
  if off = 0x108 then s.ssctl r.val v
  else if off = 0x200 then s.rsctl r v
  else if 0x600 ≤ off ∧ off < 0x800 then s.setBit (pgRegion r.val) 0x200 28 true
  else genWrite .region (pgRegion r.val) off v s

/-- A read of a region page. -/
def regionRead (r : RegionIx) (off : Nat) (peek : Bool) (s : State) : Word × State :=
  if off = 0x220 then
    (match s.curRow (.region r) s.T with
     | some (i, _) => w32 (2 ^ 31 + i)
     | none => 0, s)
  else genRead .region (pgRegion r.val) off peek s

end Sys2Proof.Machine
end

