-- ==== Sys2Proof/Machine/Parse.lean ====
section
/-! DEFINITION. Frames: FCS (R199), parser key (R207), classifier (R208), PTP trap (R209), policer (R210 to R213), and
the edits of the Fixer stage (R214, R238). -/

namespace Sys2Proof.Machine

/-! ### FCS -/

/-- CRC-32 of IEEE 802.3 over a list of bytes, as the FCS. -/
def fcsFold (c : Nat) (b : Byte) : Nat :=
  (List.range 8).foldl (fun c _ => if c % 2 = 1 then (c / 2) ^^^ 0xEDB88320 else c / 2) (c ^^^ b.toNat)
def fcs (l : List Byte) : Nat := l.foldl fcsFold 0xFFFFFFFF ^^^ 0xFFFFFFFF

/-- A frame without its FCS, and with an FCS appended. -/
def noFcs (l : List Byte) : List Byte := l.take (l.length - 4)
def withFcs (l : List Byte) : List Byte := l ++ natLE (fcs l) 4

/-- The FCS of a frame is good. -/
def fcsOk (l : List Byte) : Bool := decide (4 ≤ l.length) && decide (l = withFcs (noFcs l))

/-! ### Parser (R207) -/

def byteAt (l : List Byte) (i : Nat) : Nat := ((l[i]?).getD 0).toNat
def beAt (l : List Byte) (i n : Nat) : Nat := beNat ((l.drop i).take n)

/-- What the parser extracts: key words 0 to 7, and the tag fields. -/
structure Parsed where
  key : List Word
  tagged : Bool
  pcp : Nat
  vid : Nat
  ptp : Bool
  da : Nat
  deriving DecidableEq, Repr

/-- The parser's reading of a frame of ingress port `src` whose untagged frames take `pvid` (PCP and VID). -/
def parse (frame : List Byte) (src : Nat) (pvid : BitVec 15) : Parsed :=
  let w := (noFcs frame).take 96
  let has := fun (o n : Nat) => decide (o + n ≤ w.length)
  let at2 := fun (o : Nat) => if has o 2 then beAt w o 2 else 0
  let t1 := decide (at2 12 = 0x88A8 ∨ at2 12 = 0x8100)
  let t2 := t1 && decide (at2 16 = 0x8100)
  let eo := if t2 then 20 else if t1 then 16 else 12
  let tci := at2 14
  let pcp := if t1 then tci / 2 ^ 13 else fld pvid 12 3
  let vid := if t1 then tci % 2 ^ 12 else fld pvid 0 12
  let et := at2 eo
  let l3 := eo + 2
  let v4 := decide (et = 0x0800) && has l3 20
  let v6 := decide (et = 0x86DD) && has l3 40
  let ptp := decide (et = 0x88F7)
  let proto := if v4 then byteAt w (l3 + 9) else if v6 then byteAt w (l3 + 6) else 0
  let dscp := if v4 then byteAt w (l3 + 1) / 4
    else if v6 then byteAt w l3 % 16 * 4 + byteAt w (l3 + 1) / 64 else 0
  let l4 := if v4 then l3 + 4 * (byteAt w l3 % 16) else l3 + 40
  let l4v := (v4 || v6) && decide (proto = 6 ∨ proto = 17) && has l4 4
    && (v6 || decide (beAt w (l3 + 6) 2 % 2 ^ 13 = 0))
  let sip : Word := if v4 then w32 (beAt w (l3 + 12) 4) else if v6 then crc32c ((w.drop (l3 + 8)).take 16) else 0
  let dip : Word := if v4 then w32 (beAt w (l3 + 16) 4) else if v6 then crc32c ((w.drop (l3 + 24)).take 16) else 0
  let da := beAt w 0 6
  let sa := beAt w 6 6
  { key :=
      [w32 da, w32 (sa % 2 ^ 16 * 2 ^ 16 + da / 2 ^ 32), w32 (sa / 2 ^ 16),
       w32 (et * 2 ^ 16 + b2n t1 * 2 ^ 15 + pcp * 2 ^ 12 + vid), sip, dip,
       w32 (if l4v then at2 (l4 + 2) * 2 ^ 16 + at2 l4 else 0),
       w32 (b2n ptp * 2 ^ 27 + b2n l4v * 2 ^ 26 + b2n v6 * 2 ^ 25 + b2n v4 * 2 ^ 24 + proto * 2 ^ 16 + dscp * 2 ^ 8
         + src)],
    tagged := t1, pcp := pcp, vid := vid, ptp := ptp, da := da }

/-- FPPVID of a frame port; the cluster ports have none (log entry 15). -/
def State.pvid (s : State) (src : Nat) : BitVec 15 :=
  if src < 16 then BitVec.ofNat 15 (s.reg (pgPort src) 0x050).toNat else Config.cpPvid (src - 16)

/-! ### Classifier (R208) -/

/-- Counters of the frame path that have no register: NOMATCH, CLDROP, SCHEDSTORE, drops by filter, and the four drop
counts of each queue 8p + t. -/
def kNoMatch : Nat := 2 ^ 26
def kClDrop : Nat := 2 ^ 26 + 1
def kSchedStore : Nat := 2 ^ 26 + 2
def kFilter (f : Nat) : Nat := 2 ^ 26 + 0x1000 + f
def kQueue (row q : Nat) : Nat := 2 ^ 26 + 0x2000 + 0x100 * row + q

/-- Entry `i` matches a key. -/
def State.clMatch (s : State) (i : Nat) (key : List Word) : Bool :=
  bit (s.tw 1 i 16) 31 && (key.zipIdx).all fun (k, w) => decide ((k ^^^ s.tw 1 i w) &&& s.tw 1 i (8 + w) = 0)

/-- An edit that the classifier hands to the Fixer stage. -/
structure Edit where
  op : Nat
  vid : Nat
  pcp : Nat
  deriving DecidableEq, Repr

def Edit.none : Edit := ⟨0, 0, 0⟩

/-- The classifier's decision: descriptor and edit, or a drop. -/
def State.classify (s : State) (fr : Fr) (key : List Word) : Option (Fr × Edit) × State :=
  match (List.range 1024).find? fun i => s.clMatch i key with
  | none => (none, s.addCnt kNoMatch 1)
  | some i =>
    let a := s.tw 1 i 16
    let d := s.tw 1 i 17 &&& ~~~(w32 (2 ^ fr.src))
    if bit a 30 ∨ d = 0 then (none, s.addCnt kClDrop 1)
    else
      (some ({ fr with tc := fld a 25 3, dest := d, stream := fld a 16 9, svalid := true, ctok := bit a 29,
                       sched := bit a 28 },
             ⟨fld a 14 2, fld a 0 12, fld (s.tw 1 i 18) 0 3⟩), s)

/-! ### Policer (R210 to R213) -/

/-- Stream gate `g` at time `ts`: open, IPV, and the state with CLOSEDINV set by a closed row (R211). -/
def State.streamGate (s : State) (g : Fin 128) (ts : Nat) : Bool × Option Nat × State :=
  let l : ListId := .gate g
  let p := s.lpar l 0
  if !bit p 31 then (true, none, s)
  else if bit p 27 then (false, none, s)
  else
    match s.curRow l ts with
    | none => (true, none, s)
    | some (_, w) =>
      if bit w 31 then (true, if bit w 30 then some (fld w 27 3) else none, s)
      else (false, none, if bit p 28 then s.setLpar l 0 (insBit p 27 true) else s)

def State.bucket (s : State) (k : Nat) : Nat := Tab.get 0 s.fp.bucket k
def State.bucketT (s : State) (j : Nat) : Nat := Tab.get 0 s.fp.bucketT j
def State.setBucket (s : State) (j c e t : Nat) : State :=
  { s with fp := { s.fp with bucket := Tab.set 0 (Tab.set 0 s.fp.bucket (2 * j) c) (2 * j + 1) e,
                             bucketT := Tab.set 0 s.fp.bucketT j t } }

/-- Bucket sizes of meter `j` in 10^-6 bit. -/
def State.meterCap (s : State) (j : Nat) : Nat × Nat :=
  ((s.tw 4 j 1).toNat * 8000000, fld (s.tw 4 j 3) 0 24 * 8000000)

/-- Buckets full, as after a write of the entry (R213). -/
def State.meterFill (s : State) (j : Nat) : State := s.setBucket j (s.meterCap j).1 (s.meterCap j).2 s.T

/-- Meter `j` on a frame of `len` bytes at `ts`: 0 green, 1 yellow, 2 red (R213). -/
def State.meter (s : State) (j len ts : Nat) : Nat × State :=
  let w3 := s.tw 4 j 3
  let dt := ts - s.bucketT j
  let c := min (s.meterCap j).1 (s.bucket (2 * j) + (s.tw 4 j 0).toNat * dt)
  let e := min (s.meterCap j).2 (s.bucket (2 * j + 1) + (s.tw 4 j 2).toNat * dt)
  let n := len * 8000000
  let t := max ts (s.bucketT j)
  if bit w3 30 then (2, s.setBucket j c e t)
  else if n ≤ c then (0, s.setBucket j (c - n) e t)
  else if n ≤ e then (if bit w3 31 then 2 else 1, s.setBucket j c (e - n) t)
  else (2, s.setBucket j c e t)

/-- Check 3 of R210 holds for a frame of `len` bytes. -/
def State.sduOk (s : State) (f len : Nat) : Bool :=
  let m := fld (s.tw 2 f 0) 0 14
  decide (len ≤ if m = 0 then 9216 else m)

/-- A frame too long for its filter: counted, BLOCKED set when BLOCKOVS = 1. -/
def State.oversize (s : State) (f : Nat) : State :=
  let s := s.addCnt (kFilter f) 1
  if bit (s.tw 2 f 0) 30 then s.setTw 2 f 0 (insBit (s.tw 2 f 0) 29 true) else s

/-- The frame has a stream filter. -/
def State.filtered (s : State) (fr : Fr) : Bool := fr.svalid && bit (s.tw 2 fr.stream 0) 31

/-- The checks of R210 in their order; `sdu` is false while check 3 waits for the end of a cut-through frame. -/
def State.police (s : State) (fr : Fr) (len : Nat) (sdu : Bool) : Option Fr × State :=
  if !s.filtered fr then (some fr, s)
  else
    let f := fr.stream
    let w0 := s.tw 2 f 0
    let w1 := s.tw 2 f 1
    if bit w0 29 then (none, s.addCnt (kFilter f) 1)
    else if sdu && !s.sduOk f len then (none, s.oversize f)
    else
      let (op, ipv, s) := if bit w1 31 then s.streamGate (w1.extractLsb' 16 7).toFin fr.ts.toNat else (true, none, s)
      if !op then (none, s.addCnt (kFilter f) 1)
      else
        let (col, s) := if bit w1 15 then s.meter (fld w1 0 9) len fr.ts.toNat else (0, s)
        if col = 2 then (none, s.addCnt (kFilter f) 1)
        else (some { fr with tc := ipv.getD fr.tc, yellow := decide (col = 1) }, s)

/-! ### Edits (R207, R213, R214) -/

/-- A C-tag. -/
def cTag (pcp vid : Nat) : List Byte := [0x81, 0x00] ++ natBE (pcp * 2 ^ 13 + vid) 2

/-- The bytes of a frame without FCS after DEI of a yellow frame and the TAGOP edit. -/
def editBytes (l : List Byte) (tagged yellow : Bool) (e : Edit) : List Byte :=
  let l := if yellow && tagged then l.take 14 ++ natBE (byteAt l 14 ||| 0x10) 1 ++ l.drop 15 else l
  match e.op with
  | 1 => l.take 12 ++ cTag e.pcp e.vid ++ l.drop 12
  | 2 => if tagged then l.take 12 ++ l.drop 16 else l
  | 3 =>
    if tagged then
      l.take 14 ++ natBE (e.pcp * 2 ^ 13 + byteAt l 14 / 16 % 2 * 2 ^ 12 + e.vid) 2 ++ l.drop 16
    else l.take 12 ++ cTag e.pcp e.vid ++ l.drop 12
  | _ => l

end Sys2Proof.Machine
end

