-- ==== Sys2Proof/Machine/Frame.lean ====
section
/-! DEFINITION. The Fixer's counters (R231, R240 to R242), the queue manager (R200, R215), shaping and selection
conditions (R216 to R219), cut-through (R220, R221), and the way of a frame from its ingress to its queues. -/

namespace Sys2Proof.Machine

/-! ### Ports -/

/-- Counter `n` of frame port `i` (R197). -/
def State.fpCnt (s : State) (i n k : Nat) : State := s.addCnt (rkey (pgPort i) (0x080 + 8 * n)) k

/-- A frame port receives and sends: EN = 1, a rate of the table, LINK = 1, and its domain runs (R197, R200). -/
def State.fpUp (s : State) (i : Nat) : Bool :=
  let c := s.reg (pgPort i) 0x040
  bit c 31 && decide (fld c 28 3 ≤ 4) && s.rbit (pgPort i) 0x044 31 && s.awake (246 + i) && s.awake 262

/-- A destination takes frames: a frame port that is up, or a cluster port whose region is up (R27, R200). A cluster port of a
region in NAP takes no frame and keeps those that it holds (DESIGN CHOICE; log entry 67). -/
def State.destUp (s : State) (p : Nat) : Bool := if p < 16 then s.fpUp p else s.regUp ((p - 16) / 4)

def State.fpRate (s : State) (i : Nat) : Nat := s.rfld (pgPort i) 0x040 28 3
/-- Byte time in those units, and rate in kbit/s, of a RATE code (R197, R222). -/
def byteTime (rate : Nat) : Nat :=
  match rate with | 0 => 26214400 | 1 => 2621440 | 2 => 1048576 | 3 => 524288 | _ => 262144
def kbps (rate : Nat) : Nat :=
  match rate with | 0 => 100000 | 1 => 1000000 | 2 => 2500000 | 3 => 5000000 | _ => 10000000

/-- The present time of the frame path in byte-time units. -/
def State.nowU (s : State) : Nat := s.copy % 2 ^ 80 * 5

/-- MAXLEN as it acts (R197). -/
def State.maxLen (s : State) (i : Nat) : Nat := min 9216 (max 64 (s.rfld (pgPort i) 0x040 0 14))

/-- Class `t` is express (R216). -/
def State.express (s : State) (i t : Nat) : Bool := s.rbit (pgPort i) 0x040 (16 + t) || !s.rbit (pgPort i) 0x040 27

def State.port (s : State) (i : Nat) : Port := Tab.get Port.reset s.fp.ports i
def State.onPort (s : State) (i : Nat) (f : Port → Port) : State :=
  { s with fp := { s.fp with ports := Tab.set Port.reset s.fp.ports i (f (s.port i)) } }
def State.fq (s : State) (p t : Nat) : List Nat := Tab.get [] s.fp.queues (8 * p + t)
def State.setFq (s : State) (p t : Nat) (l : List Nat) : State :=
  { s with fp := { s.fp with queues := Tab.set [] s.fp.queues (8 * p + t) l } }
def State.frame (s : State) (id : Nat) : Option Fr := Tab.get none s.fp.frames id
def State.setFrame (s : State) (id : Nat) (f : Option Fr) : State :=
  { s with fp := { s.fp with frames := Tab.set none s.fp.frames id f } }

/-- Destination `p` has finished with a frame; the cells return with the last destination (R215). -/
def State.finish (s : State) (id p : Nat) : State :=
  match s.frame id with
  | none => s
  | some f =>
    let d := f.dests.filter fun i => i ≠ p
    s.setFrame id (if d.isEmpty then none else some { f with dests := d })

/-! ### Fixer counters and log (R241, R242) -/

/-- Counter `n` of the Fixer page. -/
def State.fxCnt (s : State) (n k : Nat) : State := s.addCnt (rkey 0x025 (0x080 + 8 * n)) k

/-- An abort, or a count under OLDFCS: counter, FXLAST, ABORT and the log record. REASON 1 to 5 count in counters 1 to
5. -/
def State.fixer (s : State) (reason port stage : Nat) (fr : Fr) : State :=
  let w := w32 (2 ^ 31 + port * 2 ^ 24 + stage * 2 ^ 20 + reason * 2 ^ 16 + (if fr.svalid then fr.stream else 0))
  let s := ((s.fxCnt reason 1).setReg 0x025 0x044 w).flag 0x025 0
  let k := 32 * reason + port
  let last := Tab.get 0 s.fp.aborts k
  if last = 0 ∨ last + 999999 ≤ s.T then
    let s := { s with fp := { s.fp with aborts := Tab.set 0 s.fp.aborts k (s.T + 1) } }
    s.logDie 0x25 (w &&& 0x1FFF0000) (w &&& 0x1FF)
  else s

/-- The bytes of a frame with its correctable words corrected (R228). -/
def Fr.fixed (f : Fr) : List Byte :=
  f.synd.foldl (fun l (i, b) =>
    let w := (l.drop (8 * i)).take 8
    l.take (8 * i) ++ natLE (fixWord (BitVec.ofNat 64 (leNat w)) b).toNat w.length ++ l.drop (8 * i + 8)) f.bytes

/-- Words found in stage `st` with a correctable or an uncorrectable error (R229, R241). -/
def State.fxStage (s : State) (st : Nat) (e : Ecc) : State :=
  match e with
  | .ok => s
  | .corr => (s.addSat 0x025 (0x0FC + 4 * st) 0 16 1).fxCnt 6 1
  | .unc => (s.addSat 0x025 (0x0FC + 4 * st) 16 16 1).flag 0x025 1

/-- The words of a stored frame read in stage `st`: what was found, and the state with the counters and the frame corrected
(R228, R229, R233). -/
def State.scan (s : State) (id st : Nat) : Ecc × State :=
  match s.frame id with
  | none => (.ok, s)
  | some f =>
    if f.synd.isEmpty then (.ok, s)
    else
      let s := each f.synd (fun (_, b) s => s.fxStage st (synClass b)) s
      if f.synd.any fun e => decide (synClass e.2 = .unc) then (.unc, s)
      else (.corr, s.setFrame id (some { f with bytes := f.fixed, synd := [] }))

/-! ### Queue manager (R215) -/

def cellsOf (len : Nat) : Nat := (len + 255) / 256

/-- Cells charged to queue `8p + t`, and cells in use. -/
def State.qCells (s : State) (p t : Nat) : Nat :=
  s.fp.frames.foldl (fun a e => match e.2 with
    | some f => if f.tc = t ∧ p ∈ f.dests then a + Tab.get 0 f.charge p else a
    | none => a) 0
def State.inUse (s : State) : Nat :=
  s.fp.frames.foldl (fun a e => match e.2 with | some f => a + f.cells | none => a) 0

def State.rsv (s : State) (q : Nat) : Nat := fld (s.tw 6 q 0) 0 16
def State.qmax (s : State) (q : Nat) : Nat := fld (s.tw 6 q 1) 0 16

/-- F: the free cells that no queue has reserved. -/
def State.pool (s : State) : Int :=
  (Config.cells : Int) - s.inUse - ((List.range 256).foldl (fun a q => a + (s.rsv q - s.qCells (q / 8) (q % 8))) 0 : Nat)

/-- The case of R215 for a destination: 0 admitted, 1 link down, 2 LENGTH, 3 MAX, 4 POOL. -/
def State.admitCase (s : State) (p t len c : Nat) (first : Bool) : Nat :=
  if !s.destUp p then 1
  else if p < 16 ∧ s.maxLen p < len then 2
  else if s.qmax (8 * p + t) < s.qCells p t + c then 3
  else if first ∧ s.rsv (8 * p + t) < s.qCells p t + c ∧ s.pool < (c : Int) then 4
  else 0

/-! ### Shaper and selection conditions (R216, R217) -/

/-- Credit in steps of 1/1,024 bit with a part of a step, from a sum in millionths of a step (R217). -/
def steps (n : Int) : Int × Nat := (n / 1000000, (n % 1000000).toNat)

/-- Shaper credit of every class of port `i` brought up to T. It falls from the start of a transmission on; a stored frame
that has been selected waits until then. DESIGN CHOICE; log entry 34. -/
def State.credits (s : State) (i : Fin 16) : State :=
  let pt := s.port i.val
  let now := s.T
  let rate := kbps (s.fpRate i.val)
  let cr := (List.range 8).foldl (fun (m : Tab Int × Tab Nat) t =>
    let w0 := s.tw 7 (8 * i.val + t) 0
    let c := Tab.get 0 m.1 t * 1000000 + Tab.get 0 m.2 t
    let idle : Int := (min (fld w0 0 31) rate : Nat)
    let hi : Int := ((s.tw 7 (8 * i.val + t) 1).toNat * 1024000000 : Nat)
    let waits := !(s.fq i.val t).isEmpty || (match pt.held with
      | some x => decide (x.cls = t)
      | none => false)
    let part := fun (sending waits : Bool) (a b : Nat) (c : Int) =>
      let dt : Int := (1024 * s.openNs i t a b : Nat)
      if sending then min hi (c + (idle - rate) * dt)
      else if waits then min hi (c + idle * dt)
      else if c < 0 then min 0 (c + idle * dt)
      else 0
    let v : Int :=
      if !bit w0 31 then 0
      else
        match pt.tx.filter fun x => decide (x.cls = t) with
        | some x =>
          let b := max pt.creditT (min now (x.start / nsU))
          part true false b now (if b = pt.creditT then c else part false (waits || !x.cut) pt.creditT b c)
        | none => part false waits pt.creditT now c
    (Tab.set 0 m.1 t (steps v).1, Tab.set 0 m.2 t (steps v).2)) (pt.credit, pt.creditRem)
  s.onPort i.val fun x => { x with credit := cr.1, creditRem := cr.2, creditT := now }

/-- CBS is off for class `t`, or its credit is not negative. -/
def State.shaperOk (s : State) (i t : Nat) : Bool :=
  !bit (s.tw 7 (8 * i + t) 0) 31 || decide (0 ≤ Tab.get 0 (s.port i).credit t)

/-- Bytes of a transmission: preamble, SFD and the frame, padded (R199). -/
def wireLen (len : Nat) : Nat := 8 + max 64 len

/-- What the egress MAC sends of a frame: a short one is padded to 60 bytes with a new FCS (R199). -/
def wireFrame (l : List Byte) : List Byte :=
  if l.length < 64 then withFcs (noFcs l ++ List.replicate (64 - l.length) 0) else l

/-- Bytes with the bitwise inverse of their FCS, with which a stomped frame ends (R221, R239). -/
def stompFcs (l : List Byte) : List Byte := l ++ (natLE (fcs l) 4).map fun b => ~~~b

/-- Preamble and SFD (R199). -/
def preamble : List Byte := List.replicate 7 0x55 ++ [0xD5]

/-- The preamble and start delimiters of a transmission: of an express frame, and of the first and a later fragment of the
preemptable frame of number `n` (R219). PRESUMED (IEEE 802.3 clause 99); log entry 65. -/
def mHead : Option (Nat × Nat) → List Byte
  | none => preamble
  | some (n, 0) => List.replicate 7 0x55 ++ [[0xE6, 0x4C, 0x7F, 0xB3].getD n 0]
  | some (n, k + 1) =>
    List.replicate 6 0x55 ++ [[0x61, 0x52, 0x9E, 0x2A].getD n 0, [0xE6, 0x4C, 0x7F, 0xB3].getD (k % 4) 0]

/-- The check of a fragment that is not the last one, over the bytes `l` of the frame sent so far (R219). PRESUMED (IEEE
802.3 clause 99); log entry 65. -/
def mCrc (l : List Byte) : List Byte := natLE (fcs l ^^^ 0x0000FFFF) 4

/-- Gate, Fits, Shaper and Hold of R216 at time `x` in ns, for a frame of `len` bytes of class `t` whose first preamble byte
would leave at `start` in byte-time units. -/
def State.mayStart (s : State) (i : Fin 16) (t len x start : Nat) : Bool :=
  s.gateOpen i t x && s.shaperOk i.val t && (s.express i.val t || !s.holdMac i x)
    && (match s.closeIn i t x with
        | none => true
        | some d => decide (start + wireLen len * byteTime (s.fpRate i.val) ≤ (x + d) * nsU))

/-- Egress timestamp of a transmission that starts at `start` (R222). -/
def State.egressTs (s : State) (i start : Nat) : Nat :=
  (start + 8 * byteTime (s.fpRate i)) / nsU + s.rfld (pgPort i) 0x04C 0 16

/-! ### Cut-through (R220) -/

/-- The length a cut-through frame is charged with at egress `p` (R215). -/
def State.chargedLen (s : State) (fr : Fr) (p : Nat) : Nat :=
  if s.filtered fr then
    let m := fld (s.tw 2 fr.stream 0) 0 14
    if m = 0 then 9216 else m
  else s.maxLen p

/-- Preemption is active (R219). -/
def State.preempts (s : State) (i : Nat) : Bool :=
  s.rbit (pgPort i) 0x040 27 && (!s.rbit (pgPort i) 0x040 24 || decide (s.rfld (pgPort i) 0x044 28 2 = 2))

/-- The number with which port `i` begins a frame of class `t`, if it is a preemptable one; and the port once it has taken
it. -/
def State.smdOf (s : State) (i t : Nat) : Option (Nat × Nat) :=
  if s.preempts i && !s.express i t then some ((s.port i).num, 0) else none
def Port.numbered (x : Port) (m : Option (Nat × Nat)) : Port := if m.isSome then { x with num := (x.num + 1) % 4 } else x

/-- When the inter-frame gap after the transmission in progress at a port, or after its last one, is over (R199). -/
def State.idleAt (s : State) (p : Nat) : Nat :=
  match (s.port p).tx with
  | none => (s.port p).freeAt
  | some x =>
    let n := match x.out with
      | some l => 8 + l.length
      | none => wireLen (((s.frame x.id).map fun f => f.bytes.length).getD 0)
    x.start + (n - x.done + 12) * byteTime (s.fpRate p)

/-- Every condition of R220 but admission holds at frame port `p` for release at `rel`. -/
def State.canCut (s : State) (fr : Fr) (p : Fin 16) (rel : Nat) : Bool :=
  decide (fr.src < 16) && decide (s.fpRate fr.src = 4 ∧ s.fpRate p.val = 4) && s.fpUp p.val && fr.ctok
    && (s.port p.val).nextTx.isNone && (s.port p.val).held.isNone && decide (s.idleAt p.val ≤ rel)
    && (List.range 8).all (fun t => decide (t < fr.tc) || (s.fq p.val t).isEmpty)
    && s.mayStart p fr.tc (s.chargedLen fr p.val) (rel / nsU) rel

/-- Destination-wise admission of a frame in ascending port order: descriptor with its charges, state with the drop
counts, and destinations cut through. `len` is LEN after the edit, `grow` its growth by the edit. -/
def State.place (s : State) (fr : Fr) (len grow rel : Nat) (cut : Bool) : Fr × State × List Nat :=
  (below 32 fun p => bit fr.dest p).foldl (fun (fr, s, cuts) p =>
    let t := fr.tc
    let first := fr.dests.isEmpty
    let ok := fun (c : Nat) =>
      { fr with dests := fr.dests ++ [p], charge := Tab.set 0 fr.charge p c, cells := if first then c else fr.cells }
    let cc := cellsOf (s.chargedLen fr p)
    if h : p < 16 ∧ cut then
      if (s.credits ⟨p, h.1⟩).canCut fr ⟨p, h.1⟩ rel && decide (s.admitCase p t (s.chargedLen fr p + grow) cc first = 0) then
        (ok cc, s, cuts ++ [p])
      else
        let k := s.admitCase p t len (cellsOf len) first
        if k = 0 then (ok (cellsOf len), if fr.sched then s.addCnt kSchedStore 1 else s, cuts)
        else (fr, s.addCnt (kQueue (k - 1) (8 * p + t)) 1, cuts)
    else
      let k := s.admitCase p t len (cellsOf len) first
      if k = 0 then (ok (cellsOf len), if fr.sched && decide (p < 16) then s.addCnt kSchedStore 1 else s, cuts)
      else (fr, s.addCnt (kQueue (k - 1) (8 * p + t)) 1, cuts)) (fr, s, [])

/-- An admitted frame enters its queues, and its transmissions at the ports that cut it through. -/
def State.enqueue (s : State) (fr : Fr) (cuts : List Nat) (rel : Nat) : State :=
  if fr.dests.isEmpty then s
  else
    let id := s.fp.next
    let s := each (List.range 16) (fun p s =>
      if h : p < 16 then (if p ∈ fr.dests then s.credits ⟨p, h⟩ else s) else s) s
    let s := { s with fp := { s.fp with next := id + 1 } }
    let s := s.setFrame id (some { fr with addr := (Config.firstCell id).toNat })
    each fr.dests (fun p s =>
      if p ∈ cuts then
        let y : Tx := { id := id, cls := fr.tc, start := rel, ts := s.egressTs p rel, done := 0, cut := true, out := none,
                        smd := s.smdOf p fr.tc }
        s.onPort p fun x =>
          (if x.tx.isNone then { x with tx := some y } else { x with nextTx := some y }).numbered y.smd
      else s.setFq p fr.tc (s.fq p fr.tc ++ [id])) s

/-! ### From the ingress to the queues -/

/-- The Fixer stage and the queue manager for a frame that the earlier stages have passed (R214, R238). -/
def State.fixStage (s : State) (fr : Fr) (tagged : Bool) (e : Edit) (rel : Nat) (cut : Bool) : State × List Nat :=
  let body := editBytes (noFcs fr.bytes) tagged fr.yellow e
  let edited := decide (e.op ≠ 0) || (fr.yellow && tagged)
  let toC := (List.range 16).any fun c => bit fr.dest (16 + c)
  let bytes := if edited then withFcs body else fr.bytes
  let p := parse bytes fr.src (s.pvid fr.src)
  let grow := body.length + 4 - fr.bytes.length
  let fr := { fr with bytes := bytes, ccw := if toC then crc32c body else 0, pcp := p.pcp, vid := p.vid }
  let len := bytes.length
  let (fr, s, cuts) := s.place fr len grow rel cut
  let s := if edited || toC then s.fxCnt 0 1 else s
  (s.enqueue fr cuts rel, cuts)

/-- A frame starts a new check at the Fixer stage (R238). -/
def newCheck (fr : Fr) (tagged : Bool) (e : Edit) : Bool :=
  (List.range 16).any (fun c => bit fr.dest (16 + c))
    || ((decide (e.op ≠ 0) || (fr.yellow && tagged)) && (List.range 16).any fun p => bit fr.dest p)

/-- Port `p` ends its transmission of frame `id` at once, after `n` bytes of it, with the inverted FCS (R221). -/
def State.stompAt (s : State) (id : Nat) (f : Fr) (n p : Nat) : State :=
  let cut := fun (y : Tx) => if y.id = id then { y with out := some (stompFcs (f.bytes.take n)) } else y
  (s.onPort p fun x => { x with tx := x.tx.map cut, nextTx := x.nextTx.map cut }).fpCnt p 6 1

/-- Frame `id`, cut through at `cuts`, is stomped there after `n` bytes; its other destinations drop it (R221, R240). -/
def State.stomp (s : State) (id : Nat) (cuts : List Nat) (n : Nat) : State :=
  match s.frame id with
  | none => s
  | some f =>
    let s := each cuts (fun p s => s.stompAt id f n p) s
    let s := each f.dests (fun p s => s.setFq p f.tc ((s.fq p f.tc).filter fun j => j ≠ id)) s
    s.setFrame id (if cuts.isEmpty then none else some { f with dests := f.dests.filter fun p => decide (p ∈ cuts) })

/-- Index of the last byte of the parse window of a frame, and whether its byte `n` arrives after the frame's release for
cut-through, 250 byte times after that one (R220, R225). -/
def lastHdr (len : Nat) : Nat := min 95 (len - 1)
def afterRel (len n : Nat) : Bool := decide (lastHdr len + 250 < n)

/-- Bytes of a cut-through frame sent when its byte `n` arrives: the preamble begins 250 byte times after the last header
byte. -/
def sentBy (len n : Nat) : Nat := n - (lastHdr len + 258)

/-- A fault of a frame: the index of the byte that brings it, and whether it is a bad FCS (R198). -/
abbrev RxFault := Option (Nat × Bool)

/-- The byte with which a frame exceeds its filter's MAXSDU (R210). -/
def State.overAt (s : State) (fr : Fr) : Option Nat :=
  if s.filtered fr && !s.sduOk fr.stream fr.bytes.length then
    let m := fld (s.tw 2 fr.stream 0) 0 14
    some (if m = 0 then 9216 else m)
  else none

/-- What comes of a frame whose transmissions at `cuts` have begun: sent whole, or stomped by the first of a fault and the
byte beyond MAXSDU (R210, R221, R240). -/
def State.cutEnd (s : State) (f : Fr) (id : Nat) (cuts : List Nat) (fault : RxFault) : State :=
  let len := f.bytes.length
  match s.overAt f, fault with
  | some m, none => (s.oversize f.stream).stomp id cuts (sentBy len m)
  | some m, some (n, bad) =>
    if m ≤ n then (s.oversize f.stream).stomp id cuts (sentBy len m)
    else
      let t := s.stomp id cuts (sentBy len n)
      if bad then (t.fxCnt 7 cuts.length).fixer 1 f.src 1 f else t
  | none, some (n, bad) =>
    let t := s.stomp id cuts (sentBy len n)
    if bad then (t.fxCnt 7 cuts.length).fixer 1 f.src 1 f else t
  | none, none => s

/-- What happens to a frame before its release decides against cut-through: a fault, or a byte beyond MAXSDU (R221). -/
def State.early (s : State) (fr : Fr) (fault : RxFault) : Bool :=
  let len := fr.bytes.length
  (fault.any fun e => !afterRel len e.1) || ((s.overAt fr).any fun n => !afterRel len n)

/-- Policer, Fixer stage and queue manager for a classified frame: cut through where R220 allows it and nothing before the
release speaks against it, stored or dropped elsewhere (R198, R210, R220, R221, R240). DEDUCED; log entry 35. -/
def State.onward (s : State) (fr : Fr) (tagged : Bool) (e : Edit) (rel : Nat) (fault : RxFault) : State :=
  let len := fr.bytes.length
  let cut := match s.police fr len false with
    | (some f, t) => if s.early fr fault then none else some (f, t, t.fixStage f tagged e rel true)
    | _ => none
  match cut with
  | some (f, t, u, c :: cuts) => u.cutEnd f t.fp.next (c :: cuts) fault
  | _ =>
    match s.police fr len true with
    | (none, t) => t
    | (some f, t) =>
      match fault with
      | some (_, bad) => if bad && newCheck f tagged e then t.fixer 1 f.src 1 f else t
      | none => (t.fixStage f tagged e rel false).1

/-- A new descriptor of a frame. -/
def Fr.new (bytes : List Byte) (src : Nat) (ts : DWord) : Fr :=
  { bytes := bytes, ccw := 0, src := src, tc := 0, tsreq := false, yellow := false, ptp := false, ctok := false,
    sched := false, svalid := false, stream := 0, pcp := 0, vid := 0, dest := 0, ts := ts, seq := 0, addr := 0, synd := [], cells := 0,
    charge := [], dests := [] }

/-- Parser and classifier, with the PTP trap for frames from a frame port (R207 to R209), then the later stages. -/
def State.ingress (s : State) (fr : Fr) (rel : Nat) (fault : RxFault) : State :=
  let p := parse fr.bytes fr.src (s.pvid fr.src)
  let fr := { fr with ptp := p.ptp }
  let trap := s.reg 0x020 0x040
  if bit trap 31 && decide (fr.src < 16) && p.ptp && decide (p.da = 0x0180C200000E) then
    let port := if fld trap 0 5 < 16 then 16 else fld trap 0 5
    s.onward { fr with tc := fld trap 8 3, dest := w32 (2 ^ port) } p.tagged Edit.none rel fault
  else
    match s.classify fr p.key with
    | (none, t) => t
    | (some (f, e), t) => t.onward f p.tagged e rel fault

/-- The case of R198 of a frame at frame port `i`, by its counter, and the byte that decides it: what comes first. -/
def State.rxCase (s : State) (i : Nat) (f : RxFrame) : Nat × Nat :=
  let len := f.bytes.length
  let long := decide (s.maxLen i < len)
  match f.phyErr with
  | some n => if long && decide (s.maxLen i < n) then (3, s.maxLen i) else (4, min n (len - 1))
  | none =>
    if long then (3, s.maxLen i) else if !fcsOk f.bytes then (1, len - 1) else if len < 64 then (2, len - 1) else (0, 0)

/-- Byte time of the first DA byte of a received frame (R222). -/
def rxTime (f : RxFrame) (rate : Nat) : Nat :=
  (f.ts.toNat * 2 ^ 16 + f.frac.toNat) * 5 + f.lane.val * byteTime rate

/-- A frame at a frame port (R198): its case, its counter, and the stages. A fault inside the parse window is known before
any stage sees the frame; the FCS of a frame that the window holds whole is not (R214, R240). DEDUCED; log entry 35. -/
def State.receive (s : State) (i : Nat) (f : RxFrame) : State :=
  if s.fpUp i then
    let len := f.bytes.length
    let (kind, n) := s.rxCase i f
    let s := s.fpCnt i kind 1
    if kind ≠ 0 ∧ (len < 64 ∨ (kind ≠ 1 ∧ n < 96)) then s
    else
      let bt := byteTime (s.fpRate i)
      let t := rxTime f (s.fpRate i)
      let ts : DWord := BitVec.ofNat 64 (t / nsU) - BitVec.ofNat 64 (s.rfld (pgPort i) 0x048 0 16)
      s.ingress (Fr.new f.bytes i ts) (t + (lastHdr len + 250) * bt) (if kind = 0 then none else some (n, decide (kind = 1)))
  else s

end Sys2Proof.Machine
end

