-- ==== Sys2Proof/Machine/Egress.lean ====
section
/-! DEFINITION. Egress selection, preemption and the end of a transmission (R216, R219, R221 to R223, R239), port
configuration and link (R197, R200), cluster port rings (R202, R203, R237), and the table windows (R205, R206). -/

namespace Sys2Proof.Machine

/-! ### Aborts in the egress (R230, R239, R240) -/

/-- Bytes of the current fragment sent so far. -/
def State.sentNow (s : State) (i : Nat) (x : Tx) : Nat := (s.nowU - x.start) / byteTime (s.fpRate i) - 8

/-- A transmission of frame `id` that is not stomped. -/
def Tx.sends (x : Tx) (id : Nat) : Bool := decide (x.id = id) && x.out.isNone

/-- The port without a transmission of frame `id` that has not begun at `now` (R240). -/
def Port.unsent (x : Port) (id now : Nat) : Port :=
  let x := if x.nextTx.any fun y => y.sends id then { x with nextTx := none } else x
  if x.tx.any fun y => y.sends id && decide (now < y.start) then { x with tx := x.nextTx, nextTx := none } else x

/-- A frame is aborted under a Fixer reason found at `stage`: every egress that has begun it stomps, after at most `lim`
bytes, the other destinations drop it (R230, R240). -/
def State.abortAt (s : State) (id reason stage lim : Nat) : State :=
  match s.frame id with
  | none => s
  | some f =>
    let sends := below 16 fun p => (s.port p).tx.any fun y => y.sends id && decide (y.start ≤ s.nowU)
    let paused := below 16 fun p => (s.port p).held.any fun y => y.sends id
    let n := fun (p : Nat) => ((s.port p).tx.map fun x => max x.done (min lim (x.done + s.sentNow p x))).getD 0
    let t := each (List.range 16) (fun p t => t.onPort p fun x => x.unsent id s.nowU) s
    let t := each sends (fun p t => t.stompAt id f (n p) p) t
    let t := each paused (fun p t => (t.onPort p fun x => { x with held := none }).fpCnt p 6 1) t
    let t := each f.dests (fun p t => t.setFq p f.tc ((t.fq p f.tc).filter fun j => j ≠ id)) t
    let t := t.setFrame id (if sends.isEmpty then none else some { f with dests := f.dests.filter fun p => decide (p ∈ sends) })
    (t.fxCnt 7 (sends.length + paused.length)).fixer reason f.src stage f

def State.abortFrame (s : State) (id reason stage : Nat) : State := s.abortAt id reason stage (2 ^ 14)

/-- Position in the frame of its first uncorrectable word. -/
def Fr.uncAt (f : Fr) : Nat := 8 * ((f.synd.find? fun e => decide (synClass e.2 = .unc)).map Prod.fst).getD (2 ^ 14)

/-! ### Selection (R216, R219) -/

/-- The head of queue `t` of port `i` with its frame. -/
def State.head (s : State) (i t : Nat) : Option (Nat × Fr) :=
  match s.fq i t with
  | [] => none
  | id :: _ => (s.frame id).map fun f => (id, f)

/-- A transmission that port `i` selects now begins once the inter-frame gap is over (R199). -/
def State.startAt (s : State) (i : Nat) : Nat := max s.nowU (s.port i).freeAt

/-- The highest class of port `i` that may be selected; only express classes when `exp` holds. -/
def State.pick (s : State) (i : Fin 16) (exp : Bool) : Option (Nat × Nat) :=
  [7, 6, 5, 4, 3, 2, 1, 0].findSome? fun t =>
    match s.head i.val t with
    | some (id, f) =>
      if (!exp || s.express i.val t) && s.mayStart i t f.bytes.length s.T (s.startAt i.val) then some (t, id) else none
    | none => none

/-- The frame at the head of queue `t` leaves it and its transmission starts. -/
def State.startTx (s : State) (i t id : Nat) : State :=
  let s := s.setFq i t ((s.fq i t).drop 1)
  s.onPort i fun x =>
    ({ x with tx := some { id := id, cls := t, start := s.startAt i, ts := s.egressTs i (s.startAt i), done := 0, cut := false,
                           out := none, smd := s.smdOf i t } } : Port).numbered (s.smdOf i t)

/-- The preemptable frame being sent, `x`, has reached a boundary at which it may be preempted: with its check a whole
minimum fragment has been sent, and at least 64 bytes remain. PRESUMED (IEEE 802.3 clause 99); log entry 65. -/
def State.boundaryOk (s : State) (i : Nat) (x : Tx) : Bool :=
  match s.frame x.id with
  | none => false
  | some f =>
    let n := s.sentNow i x
    decide (64 * (1 + s.rfld (pgPort i) 0x040 25 2) ≤ n + 4 ∧ x.done + n + 64 ≤ f.bytes.length)

/-- The fragment of the frame `l` that ends now, and the transmission as it goes on later. -/
def Tx.fragment (x : Tx) (l : List Byte) (n : Nat) : List Byte :=
  mHead x.smd ++ (l.take (x.done + n)).drop x.done ++ mCrc (l.take (x.done + n))
def Tx.paused (x : Tx) (n : Nat) : Tx := { x with done := x.done + n, smd := x.smd.map fun e => (e.1, e.2 + 1) }

/-- A preemptable frame is preempted when an express frame may be sent, or when hold is in force: its fragment ends with its
check, and the inter-frame gap follows. -/
def State.preempt (s : State) (i : Fin 16) : State :=
  match (s.port i.val).tx with
  | some x =>
    if x.smd.isSome && s.preempts i.val && (s.port i.val).held.isNone && x.out.isNone && s.boundaryOk i.val x
        && ((s.pick i true).isSome || s.holdMac i s.T) then
      s.onPort i.val fun y =>
        { y with tx := none, held := some (x.paused (s.sentNow i.val x)),
                 sent := x.fragment (((s.frame x.id).map Fr.bytes).getD []) (s.sentNow i.val x), stomped := false,
                 freeAt := s.nowU + 16 * byteTime (s.fpRate i.val) }
    else s
  | none => s

/-- One selection of a frame port egress. -/
def State.select (s : State) (i : Fin 16) : State :=
  if s.fpUp i.val then
    let s := (s.credits i).preempt i
    let pt := s.port i.val
    if pt.tx.isSome then s
    else
      match s.pick i pt.held.isSome, pt.held with
      | some (t, id), _ =>
        (match s.scan id 6 with
         | (.unc, s) => s.abortFrame id 2 6
         | (_, s) => s.startTx i.val t id)
      | none, some x =>
        if s.holdMac i s.T then s
        else (s.onPort i.val fun y => { y with tx := some { x with start := s.startAt i.val }, held := none }).fpCnt i.val 7 1
      | none, none => s
  else s

/-! ### End of a transmission (R199, R215, R222, R223, R239) -/

/-- An egress timestamp enters the FIFO of its port, or is dropped (R223). -/
def State.stampTx (s : State) (i : Nat) (tag : Half) (ts : Nat) : State :=
  s.onPort i fun x =>
    if x.fifo.length < Config.egressFifo then { x with fifo := x.fifo ++ [(tag, BitVec.ofNat 64 ts)] }
    else { x with lost := true }

/-- The transmission `x` of port `i` has ended with the bytes `l` of its frame: its inter-frame gap begins, and a frame that waits to be cut
through is next. -/
def State.wireEnd (s : State) (i : Nat) (x : Tx) (l : List Byte) : State :=
  (s.onPort i fun y =>
    { y with tx := y.nextTx, nextTx := none, sent := mHead x.smd ++ l.drop x.done, stomped := x.out.isSome,
             freeAt := s.nowU + 12 * byteTime (s.fpRate i) }).finish x.id i

/-- A stomped transmission has ended. -/
def State.stompEnd (s : State) (i : Nat) : State :=
  match (s.port i).tx with
  | some x =>
    (match x.out with
     | some l => s.wireEnd i x l
     | none => s)
  | none => s

/-- A transmission finishes on a frame port egress, which reads the frame's words as it sends them and compares its FCS. -/
def State.txEnd (s : State) (i : Fin 16) : State :=
  match (s.port i.val).tx with
  | none => s
  | some x =>
    let s := s.credits i
    if x.out.isSome then s.stompEnd i.val
    else
      match s.scan x.id 8 with
      | (.unc, s) => (s.abortAt x.id 2 8 (((s.frame x.id).map Fr.uncAt).getD 0)).stompEnd i.val
      | (_, s) =>
        match s.frame x.id with
        | none => s.wireEnd i.val x []
        | some f =>
          if fcsOk f.bytes then
            let s := s.fpCnt i.val 5 1
            let s := if f.tsreq then s.stampTx i.val (f.seq.truncate 16) x.ts else s
            s.wireEnd i.val x (wireFrame f.bytes)
          else
            let s := s.onPort i.val fun y =>
              { y with tx := y.tx.map fun z => { z with out := some (stompFcs (noFcs f.bytes)) } }
            (((s.fpCnt i.val 6 1).fxCnt 7 1).abortFrame x.id 3 8).stompEnd i.val

/-! ### Link and configuration (R197, R200, R219) -/

/-- Every frame held for a destination that is down is dropped as a link-down drop of its queue, and a transmission is
abandoned (R200). -/
def State.dropPort (s : State) (p : Nat) : State :=
  let s := each (List.range 8) (fun t s =>
    let l := s.fq p t
    let s := (s.setFq p t []).addCnt (kQueue 0 (8 * p + t)) l.length
    each l (fun id s => s.finish id p) s) s
  if p < 16 then
    let l := (s.port p).tx.toList ++ (s.port p).held.toList
    let s := (s.fpCnt p 6 (l.filter fun x => x.out.isNone).length).onPort p fun x =>
      { x with tx := none, held := none, nextTx := none }
    let l := l ++ (s.port p).nextTx.toList
    each l (fun x s => s.finish x.id p) s
  else s

/-- VSTATE after a change of configuration or link: verifying when preemption with VERIFY begins, off without it. -/
def State.verifyState (s : State) (i : Nat) : State :=
  let on := s.fpUp i && s.rbit (pgPort i) 0x040 27 && s.rbit (pgPort i) 0x040 24
  if !on then s.setFld (pgPort i) 0x044 28 2 0
  else if s.rfld (pgPort i) 0x044 28 2 = 0 then s.setFld (pgPort i) 0x044 28 2 1
  else s

/-- The port's frames and verify state follow its configuration and link. -/
def State.fpSettle (s : State) (i : Nat) : State := (if s.fpUp i then s else s.dropPort i).verifyState i

/-- A write of FPCFG (R197). -/
def State.fpcfg (s : State) (i : Fin 16) (v : Word) : State :=
  let s := genWrite .fport (pgPort i.val) 0x040 v (s.credits i)
  let s := if 4 < fld v 28 3 then s.setBit (pgPort i.val) 0x044 30 true else s
  s.fpSettle i.val

/-- A level of FP_LINK (R200). -/
def State.fpLink (s : State) (i : Fin 16) (b : Bool) : State := ((s.credits i).setBit (pgPort i.val) 0x044 31 b).fpSettle i.val

/-- The verify exchange ends (R219). -/
def State.verifyEnd (s : State) (i : Nat) (ok : Bool) : State :=
  if s.rfld (pgPort i) 0x044 28 2 = 1 then s.setFld (pgPort i) 0x044 28 2 (if ok then 2 else 3) else s

/-- A row change; a hold that begins preempts at once where it may (R218, R255). -/
def State.rowStep (s : State) (l : ListId) : State :=
  match l with
  | .port i => ((s.credits i).rowChange l).preempt i
  | _ => s.rowChange l

/-- A list swap, with the credits of a port brought up to it. -/
def State.swapStep (s : State) (l : ListId) : State :=
  match l with
  | .port i => (s.credits i).listSwap l
  | _ => s.listSwap l

/-! ### Cluster port rings (R202, R203, R237) -/

/-- Ring size as it acts. -/
def ringSize (cfg : Word) : Nat :=
  let z := fld cfg 0 5
  2 ^ (if 2 ≤ z ∧ z ≤ 9 then z else 2)

/-- `n` storage words from unit address `a` of a cluster's banks: corrected bytes, worst finding, and the counters. -/
def State.beats (s : State) (c a : Nat) : Nat → List Byte × Ecc × State
  | 0 => ([], .ok, s)
  | n + 1 =>
    let k := bankKey c a
    let e := synClass (s.syn k)
    let (l, w, t) := ((s.countEcc k e).fxStage 1 e).beats c (a + 8) n
    (natLE (s.word8 k).toNat 8 ++ l, (if e = .unc then .unc else w), t)

/-- The unit addresses in the banks of the storage words that hold `n` bytes from unit address `a`. -/
def bankWords (a n : Nat) : List Nat :=
  ((List.range ((a % 8 + n + 7) / 8)).map fun i => a / 8 * 8 + 8 * i).filter fun i => decide (i < 0x80000)

/-- The first of these words that port B of its bank does not serve in this cycle. -/
def State.portBlock (s : State) (c a n : Nat) : Option Nat :=
  (bankWords a n).find? fun i => s.bankBusy c (i / 0x10000) || !s.grants (arbB c (i / 0x10000)) 17 (bankKey c i)

/-- Port B of the banks that hold `n` bytes from unit address `a` serves the cluster port in this cycle, which has no request
of an earlier frame left to make. -/
def State.portFrees (s : State) (c a n : Nat) : Bool := (s.c c).cpMore.isEmpty && (s.portBlock c a n).isNone

/-- The beats of a bank in requests of at most 64 (R270). -/
def requests (key : Nat) : Nat → Nat → List (Nat × Nat)
  | 0, _ => []
  | f + 1, n => if n = 0 then [] else (key, min 64 n) :: requests key f (n - 64)

/-- The cluster port makes its next request for port B. -/
def State.portNext (s : State) (c : Nat) : State :=
  match (s.c c).cpMore with
  | [] => s
  | (key, n) :: t =>
    if s.portFree key 17 then (s.onC c fun x => { x with cpMore := t }).take key 17 n
    else s.conflict c (key / 2 % 8) 17

/-- The cluster port moves `n` bytes from unit address `a` on: it requests port B of each bank for at most 64 beats at a
time, the first request now and the others one after the other (R270). DESIGN CHOICE; log entry 52. -/
def State.portTake (s : State) (c a n : Nat) : State :=
  let keys := (bankWords a n).map fun i => arbB c (i / 0x10000)
  let l := keys.eraseDups.flatMap fun k => requests k 32 (keys.count k)
  (s.onC c fun x => { x with cpMore := x.cpMore ++ l }).portNext c

/-- The transmit or the receive side of the cluster port requests port B for `n` bytes from unit address `a` and waits: a
conflict cycle at the bank that does not serve it (R269). -/
def State.cpWait (s : State) (c a n : Nat) : State :=
  if (s.c c).cpMore.isEmpty then s.conflict c ((s.portBlock c a n).getD a / 0x10000 % 8) 17 else s
def State.txWait (s : State) (c a n : Nat) : State := (s.cpWait c a n).onC c fun x => { x with cpTx := true }
def State.rxWait (s : State) (c a n : Nat) : State := (s.cpWait c a n).onC c fun x => { x with cpRx := true }

/-- The next TX descriptor of cluster `c` (R203, R237). DEDUCED; log entry 36. -/
def State.txDesc (s : State) (c : Nat) : State :=
  let p := pgCommon c
  let s := s.onC c fun x => { x with cpTx := false }
  let cfg := s.reg p 0x204
  let pi := s.rfld p 0x208 0 16
  let ci := s.rfld p 0x20C 0 16
  if s.cluUp c && s.started && s.awake 262 && bit cfg 31 && decide (pi ≠ ci) then
    let a := (s.reg p 0x200).toNat + 32 * (ci % ringSize cfg)
    let adv := fun (s : State) => (s.setReg p 0x20C (w32 ((ci + 1) % 2 ^ 16))).flag p 0
    if 0x80000 < a + 32 then adv (s.setBit p 0x228 31 true)
    else if !s.portFrees c a 32 then s.txWait c a 32
    else
      let (d, e, s1) := (s.portTake c a 32).beats c a 4
      let w := fun (i : Nat) => w32 (leNat ((d.drop (4 * i)).take 4))
      let len := fld (w 0) 16 16
      let src := (w 3).toNat
      let fr0 := Fr.new [] (16 + c) (BitVec.ofNat 64 s.T)
      if e = .unc then adv (s1.fixer 2 (16 + c) 1 fr0)
      else if len < 14 ∨ 9212 < len ∨ src % 8 ≠ 0 ∨ 0x80000 < src + len then adv (s1.setBit p 0x228 31 true)
      else
        let dup := w 6 - s.reg p 0x224
        if dup = 0 ∨ bit dup 31 = true then adv ((s1.setBit p 0x228 30 true).addCnt (rkey p 0x230) 1)
        else if !s.portFrees c src len then s.txWait c src len
        else
          let (l, e, s2) := (s1.portTake c src len).beats c src ((len + 7) / 8)
          let body := l.take len
          let fr := { fr0 with bytes := withFcs body, tsreq := bit (w 0) 6, seq := w 6 }
          if e = .unc then adv (s2.fixer 2 (16 + c) 1 fr)
          else if crc32c body ≠ w 7 then adv (s2.fixer 4 (16 + c) 1 fr)
          else
            let s := adv (s2.setReg p 0x224 (w 6))
            if w 2 = 0 then s.ingress fr 0 none
            else
              let q := parse fr.bytes fr.src (s.pvid fr.src)
              (s.fixStage { fr with tc := fld (w 0) 8 3, dest := w 2, ptp := q.ptp } q.tagged Edit.none 0 false).1
  else s

/-- The descriptor of a delivered frame (R201, R203). -/
def rxDescr (f : Fr) (len addr : Nat) : List Word :=
  [w32 (len * 2 ^ 16 + f.src * 2 ^ 11 + f.tc * 2 ^ 8 + b2n f.ptp * 2 ^ 7 + b2n f.tsreq * 2 ^ 6 + b2n f.yellow * 2 ^ 5),
   w32 (b2n f.ctok * 2 ^ 26 + b2n f.sched * 2 ^ 25 + f.stream * 2 ^ 16 + b2n f.svalid * 2 ^ 15 + f.pcp * 2 ^ 12 + f.vid),
   f.dest, w32 addr, f.ts.extractLsb' 0 32, f.ts.extractLsb' 32 32, 0, f.ccw]

/-- A port-B write of the `n` bytes `v` at key `k` by the cluster port: a whole storage word, or a part merged into one, but
where it meets a port-A write (R267). -/
def State.portWrite (s : State) (k n v : Nat) : State :=
  if s.meetsA k then s.meetWrite k n v
  else if n = 8 then s.setWord8 k (BitVec.ofNat 64 v)
  else (s.memMerge k n v).2

/-- A byte string written to the banks of a cluster from unit address `a` on: whole storage words with new check bits,
the last part of a word merged; bytes outside the banks are not written. -/
def State.bankWrite (s : State) (c a : Nat) (l : List Byte) : State :=
  let whole := l.length / 8
  let s := each (List.range whole) (fun i s =>
    if a + 8 * i + 8 ≤ 0x80000 then s.portWrite (bankKey c (a + 8 * i)) 8 (leNat ((l.drop (8 * i)).take 8))
    else s) s
  let rest := l.drop (8 * whole)
  let b := a + 8 * whole
  if rest.isEmpty ∨ 0x80000 < b + rest.length then s
  else s.portWrite (bankKey c b) rest.length (leNat rest)

/-- The cluster port egress: the head of its highest queue, delivered or dropped (R203, R239). -/
def State.deliver (s : State) (c : Nat) : State :=
  let p := pgCommon c
  let s := s.onC c fun x => { x with cpRx := false }
  let cfg := s.reg p 0x214
  let pi := s.rfld p 0x21C 0 16
  let ci := s.rfld p 0x220 0 16
  let n := ringSize cfg
  if s.cluUp c && s.started && s.awake 262 && bit cfg 31 && decide ((pi + 2 ^ 16 - ci) % 2 ^ 16 ≠ n) then
    match [7, 6, 5, 4, 3, 2, 1, 0].findSome? (fun t => (s.head (16 + c) t).map fun x => (t, x)) with
    | none => s
    | some (t, id, f) =>
      let body := noFcs f.bytes
      let slot := 2 ^ (11 + fld cfg 8 2)
      let gone := fun (s : State) => (s.setFq (16 + c) t ((s.fq (16 + c) t).drop 1)).finish id (16 + c)
      if slot < body.length then gone (s.setBit p 0x228 29 true)
      else
        let addr := (s.reg p 0x218).toNat + pi % n * slot
        let da := (s.reg p 0x210).toNat + 32 * (pi % n)
        if !s.portFrees c addr body.length then s.rxWait c addr body.length
        else if !s.portFrees c da 32 then s.rxWait c da 32
        else if (s.scan id 6).1 = .unc then (s.scan id 6).2.abortFrame id 2 6
        else
          let s := (s.scan id 6).2
          let body := noFcs (((s.frame id).getD f).bytes)
          let s := (s.portTake c addr body.length).bankWrite c addr body
          if crc32c body ≠ f.ccw then s.abortFrame id 5 8
          else
            let s := (s.portTake c da 32).bankWrite c da ((rxDescr f body.length addr).flatMap fun w => natLE w.toNat 4)
            ((gone s).setReg p 0x21C (w32 ((pi + 1) % 2 ^ 16))).flag p 1
  else s

/-! ### Table windows (R205, R206) -/

def pgStage (st : Nat) : Nat := 0x020 + st
/-- TCMD.ERR set. -/
def State.tblErr (s : State) (st : Nat) : State := s.setBit (pgStage st) 0x044 31 true

/-- OP 1: the entry at TIDX read into TDATA. -/
def State.tblRead (s : State) (st : Nat) : State :=
  let idx := s.rfld (pgStage st) 0x040 0 16
  match tblWords st idx with
  | none => s.tblErr st
  | some n => each (List.range n) (fun w s => s.setReg (pgStage st) (0x080 + 4 * w) (s.tw st idx w)) s

/-- Σ RSV over all queues. -/
def State.rsvSum (s : State) : Nat := (List.range 256).foldl (fun a q => a + s.rsv q) 0

/-- The list whose schedule parameters an entry holds. -/
def listOf (st idx : Nat) : Option ListId :=
  if st = 3 ∧ 0x4000 ≤ idx then some (.gate (BitVec.ofNat 7 idx).toFin)
  else if st = 8 ∧ 0x2000 ≤ idx then some (.port (BitVec.ofNat 4 idx).toFin)
  else none

/-- The entry at `idx` written with the words that `v` gives: the new state, or none when the write is refused. -/
def State.tblPut (s : State) (st idx n : Nat) (v : Nat → Word) : Option State :=
  let keep := fun (w : Nat) => match listOf st idx with
    | some _ => if w = 0 then (s.tw st idx w &&& 0x21FF0000) else if 5 ≤ w then s.tw st idx w else 0
    | none => 0
  let t := each (List.range n) (fun w t => t.setTw st idx w (keep w ||| (v w &&& tblMask st idx w))) s
  match listOf st idx with
  | some l => if bit (v 0) 30 then t.listChange l else some t
  | none =>
    if (st = 3 ∧ idx / 0x2000 = 1) ∨ (st = 8 ∧ idx / 0x1000 = 1) ∨ (st = 6 ∧ Config.cells < t.rsvSum) then none
    else if st = 4 then some (t.meterFill idx)
    else some t

/-- OP 2: TDATA written to the entry at TIDX. -/
def State.tblWrite (s : State) (st : Nat) : State :=
  let idx := s.rfld (pgStage st) 0x040 0 16
  let s0 := if st = 7 then (if h : idx / 8 < 16 then s.credits ⟨idx / 8, h⟩ else s)
    else if st = 8 then s.credits (BitVec.ofNat 4 idx).toFin else s
  match tblWords st idx with
  | none => s.tblErr st
  | some n =>
    match s0.tblPut st idx n (fun w => s.reg (pgStage st) (0x080 + 4 * w)) with
    | some t => t
    | none => s.tblErr st

/-- A write of TCMD. -/
def State.tcmd (s : State) (st : Nat) (v : Word) : State :=
  let s := genWrite .classifier (pgStage st) 0x044 v s
  match fld v 0 2 with
  | 1 => s.tblRead st
  | 2 => s.tblWrite st
  | _ => s

/-- A write of CHANGE = 1 in the parameters of a list that otherwise hold their values, or in RSCTL (R212, R256). -/
def State.gateChange (s : State) (l : ListId) : State :=
  let put := fun (st idx : Nat) (s : State) =>
    match s.tblPut st idx 8 (fun w => if w = 0 then insBit (s.tw st idx 0) 30 true else s.tw st idx w) with
    | some t => t
    | none => s.tblErr st
  match l with
  | .gate g => put 3 (0x4000 + g.val) s
  | .port i => put 8 (0x2000 + i.val) (s.credits i)
  | .region r => s.rsctl r (insBit (s.reg (pgRegion r.val) 0x200) 30 true &&& ~~~0x10000000)

/-! ### Page hooks -/

/-- A write to a frame path stage page. -/
def stageWrite (k : PK) (st off : Nat) (v : Word) (s : State) : State :=
  if hasTable k && decide (off = 0x044) then s.tcmd st v
  else if k = .egts ∧ 0x040 ≤ off ∧ off < 0x140 ∧ off % 16 = 0 then
    (if bit v 16 then s.onPort ((off - 0x040) / 16) fun x => { x with lost := false } else s)
  else genWrite k (pgStage st) off v s

/-- A read of a frame path stage page (R223). -/
def stageRead (k : PK) (st off : Nat) (peek : Bool) (s : State) : Word × State :=
  if k = .egts ∧ 0x040 ≤ off ∧ off < 0x140 then
    let i := (off - 0x040) / 16
    let x := s.port i
    match off % 16 with
    | 0 =>
      (match x.fifo with
       | [] => (w32 (b2n x.lost * 2 ^ 16), s)
       | (tag, ts) :: t =>
         (w32 (2 ^ 31 + b2n x.lost * 2 ^ 16 + tag.toNat),
          if peek then s else s.onPort i fun x => { x with fifo := t, tsLatch := ts }))
    | 4 => (x.tsLatch.extractLsb' 0 32, s)
    | 8 => (x.tsLatch.extractLsb' 32 32, s)
    | _ => (0, s)
  else genRead k (pgStage st) off peek s

end Sys2Proof.Machine
end

