-- ==== Sys2Proof/Machine/Reset.lean ====
section
/-! DEFINITION. Resets of units, Reels, clusters, regions and of the whole die (R63, R154, R279, R291, R305, R396), and
the loss and return of a power domain's contents (R116, R249, R289, R386, R390). -/

namespace Sys2Proof.Machine

/-! ### Die links and the handshake -/

/-- A die link goes to link-down: every access that waits on it fails (R36, R39), and a follower may lose its master. -/
def State.linkDrop (s : State) (j : Nat) : State :=
  let out := (s.l j).out
  let s := s.setL j { s.l j with up := false, out := [], tx := [], wait := [] }
  let s := each out (fun (p, k) s =>
    if 144 ≤ p then (if k < 16 then s.dmaLost p else s)
    else
      match (s.u p).stat with
      | .die job i => if k < 16 ∧ i = j then s.accFault p job job.acc.fault 6 0 else s
      | _ => s) s
  if s.follower && decide (s.portTo s.masterDie = j) then s.masterLost else s

/-- A step powers its domain up: from SLEEP or OFF to a state with power (R390, R393). -/
def State.powersUp (s : State) (t : PwStep) : Bool := decide (rankOf (s.dom t.dom) ≤ 1) && decide (t.tgt ≤ 2)

/-- The two groups of power-up steps of R393: fabric, time base and region-common, then the rest. -/
def pwGroup (d : Nat) : Nat := if (240 ≤ d ∧ d ≤ 244) ∨ d = 263 then 1 else 2

/-- The group of power-up steps that the transition in progress comes to next, or is making (R393). -/
def State.pwNeed (s : State) : Option Nat := (s.pw.steps.find? fun t => s.powersUp t).map fun t => pwGroup t.dom

/-- PCREQ is raised before a group of power-up steps (R393). -/
def State.pwAsk (s : State) : State :=
  if s.pwNeed.isSome then { s with pw := { s.pw with pcreq := true } } else s

/-- PCREQ is lowered when its group is powered; that of the next group rises in a later cycle (R393). -/
def State.pwDrop (s : State) : State := { s with pw := { s.pw with pcreq := false, acked := false } }

/-- Steps added behind those of the transition in progress. -/
def State.addSteps (s : State) (l : List PwStep) : State :=
  if l.isEmpty then s else ({ s with pw := { s.pw with steps := s.pw.steps ++ l, busy := true } }).pwAsk

/-! ### Reset states of the parts -/

/-- A unit in its reset state, held, with its page at reset (R63). Its issued products are dropped, as by a unit reset
(R91), also where a larger reset holds the unit (DESIGN CHOICE; log entry 58). -/
def State.clearUnit (s : State) (p : Nat) : State :=
  (pageReset (pgUnit p) (s.orphan p)).setU p (UnitSt.reset s.dev.entry)

/-- A unit reset: locks abandoned (R279), the empty checkpoint (R291), then the reset state. -/
def State.resetUnit (s : State) (p : Nat) : State :=
  let c := cOf p
  let u := s.logU p
  (if u < 8 then (s.abandonAll c u).emptyCkpt c u else s).clearUnit p

/-- A Reel in its reset state, held; `keep` keeps its program memory (R154, R235, R396). -/
def State.clearReel (s : State) (r : Nat) (keep : Bool) : State :=
  let x := s.r r
  let s := each (List.range 16) (fun k s =>
    (s.freeRet r k).setReg (pgCommon (rC r)) (offLatch r k) 0xFFFFFFFF) s
  (pageReset (pgReel r) s).setR r (if keep then { ReelSt.reset with pm := x.pm, pmSynd := x.pmSynd, pq := x.pq }
    else { ReelSt.reset with pq := x.pq })

/-- Pages of a cluster. -/
def clusterPages (c : Nat) : List Nat := (List.range 7).map fun i => pgCommon c + i

/-- The state of the spare rows of a cluster. -/
def keptRegs (c : Nat) : List (Nat × Nat × Word) := (List.range 8).map fun b => (pgBanks c, 0x040 + 4 * b, 0x1F000000)

/-- The control store of a cluster with the copy of unit `v` put into unit `u`, check bits and all (R116). -/
def Clu.copyStore (x : Clu) (v u : Nat) : Clu :=
  let put := fun {α : Type} (n : Nat) (t : Tab α) (e : Nat × α) =>
    if e.1 / n = v then Tab.put (n * u + e.1 % n) e.2 t else t
  let y := x.dropCopy u
  { y with wcs := x.wcs.foldl (put 1024) y.wcs, wcsSynd := x.wcsSynd.foldl (put 2048) y.wcsSynd,
           dt := x.dt.foldl (put 32) y.dt }

/-- Unit `u` of a cluster has power, retention included, so that it holds a copy of the control store (R116, R129); the
lowest-numbered unit that has. -/
def State.hasPower (s : State) (c u : Nat) : Bool := decide (2 ≤ rankOf (s.dom (9 * c + u)))
def State.csUnit (s : State) (c : Nat) : Option Nat := (List.range 9).find? fun u => s.hasPower c u

/-- A unit's domain returns from OFF: it takes the copy of the lowest-numbered other unit that has power (R116).
DEDUCED; log entry 63. -/
def State.getStore (s : State) (p : Nat) : State :=
  match (List.range 9).find? (fun v => decide (v ≠ uOf p) && s.hasPower (cOf p) v) with
  | some v => s.onC (cOf p) fun x => x.copyStore v (uOf p)
  | none => s.onC (cOf p) fun x => x.dropCopy (uOf p)

/-- The whole of a cluster in its reset state (R305, R396). The control store and decode table stay while `store` holds
(R116); mapped rows and the page writes that wait stay. -/
def State.clearCluster (s : State) (c : Nat) (store : Bool) : State :=
  let x := s.c c
  let kept := (keptRegs c).map fun (p, o, m) => (p, o, s.reg p o &&& m)
  let s := each (List.range 9) (fun u s => s.clearUnit (9 * c + u)) s
  let s := each (List.range 5) (fun e s => s.clearReel (5 * c + e) false) s
  let s := s.setC c { Clu.reset with rows := x.rows, clearing := x.clearing, csq := x.csq, wcs := if store then x.wcs else [],
                                     wcsSynd := if store then x.wcsSynd else [], dt := if store then x.dt else [] }
  let s := each (clusterPages c) pageReset { s with arb := Tab.drop (fun k => decide (k / 16 = c)) s.arb }
  each kept (fun (p, o, v) s => s.setReg p o (s.reg p o ||| v)) s

/-- IDSPARE keeps the last value of a cluster's bits while its common domain is not running (R426). -/
def State.saveSpare (s : State) (c : Nat) : State :=
  if s.awake (224 + c) then
    (s.setBit 0 0x050 (16 + c) (s.rbit (pgNeg c) 0x044 31)).setBit 0 0x050 c (s.rbit (pgNeg c) 0x044 30)
  else s

/-- The unit whose domain a takeover of cluster `c` has left OFF, whether or not the spare stands for it (R298, R304). -/
def State.unitLost (s : State) (c : Nat) : Option Nat :=
  let p := 9 * c + s.rfld (pgNeg c) 0x044 16 3
  if s.rbit (pgNeg c) 0x044 31 && decide (s.dom p = 4) then some p else none

/-- Steps that bring back what a takeover left OFF: the replaced unit, as awake as its cluster, and a spare that failed, to
retention (R305, R390). -/
def State.backSteps (s : State) (c : Nat) : List PwStep :=
  if rankOf (s.dom (224 + c)) ≤ 1 then [] else
  ((s.unitLost c).toList.map fun p => ⟨p, if s.awake (224 + c) then 0 else 2⟩)
    ++ ([9 * c + 8, 148 + 5 * c].filter fun d => decide (s.dom d = 4)).map fun d => ⟨d, 2⟩

/-- A reset that includes the whole cluster, with the return of the spares and of the replaced unit (R305). -/
def State.resetCluster (s : State) (c : Nat) : State :=
  let back := s.backSteps c
  let s := ((s.clearCluster c true).setBit 0 0x050 (16 + c) false).setBit 0 0x050 c false
  let s := if s.awake (9 * c + 8) then s.setDom (9 * c + 8) 2 else s
  let s := if s.awake (148 + 5 * c) then s.setDom (148 + 5 * c) 2 else s
  s.addSteps back

/-- The region switch and schedule of a region (R191, R256). -/
def State.clearRegion (s : State) (r : Nat) : State :=
  let s := (pageReset (pgRegion r) s).setSched (.region (BitVec.ofNat 2 r).toFin) Sched.reset
  let s := { s with rot := Tab.set 0 s.rot r 0, arb := Tab.drop (fun k => decide (k = arbM r ∨ k = arbU r)) s.arb }
  each (List.range 4) (fun i s => s.dropPort (16 + 4 * r + i)) s

/-- A region reset (R27, R396); a cluster that is in SLEEP or OFF is in its reset state (R397). -/
def State.resetRegion (s : State) (r : Nat) : State :=
  (each (List.range 4) (fun i s =>
    if rankOf (s.dom (224 + 4 * r + i)) ≤ 1 then s else s.resetCluster (4 * r + i)) s).clearRegion r

/-! ### Holding and release (R396, R392) -/

/-- Kind code of RSTCTL and index of a scope. -/
def scopeKey : Scope → Nat × Nat
  | .region r => (2, r.val)
  | .cluster c => (3, c.val)
  | .unit p => (4, p.val)
  | .reel r => (5, r.val)

def State.holds (s : State) (kind i : Nat) : Bool := s.pw.held.any fun sc => decide (scopeKey sc = (kind, i))

/-- HELD of a region (R392). -/
def State.wakeHeld (s : State) (r : Nat) : Bool := s.rbit 0x006 0x04C r || decide (r ∈ s.pw.wake)

/-- A unit leaves reset unless something holds it; an idle spare stays in retention (R330). -/
def State.releaseUnit (s : State) (p : Nat) : State :=
  if s.started && s.cluUp (cOf p) && !s.wakeHeld (cOf p / 4) && !s.holds 4 p && s.awake p
      && decide ((s.u p).stat = .held) && !((s.u p).locked)
      && (decide (uOf p ≠ 8) || (s.c (cOf p)).urepl.isSome) then
    s.setU p { UnitSt.reset s.dev.entry with stat := .run }
  else s

/-- A Reel leaves reset unless something holds it. -/
def State.releaseReel (s : State) (r : Nat) : State :=
  if s.started && s.cluUp (rC r) && !s.wakeHeld (rR r) && !s.holds 5 r && s.awake (144 + r)
      && (decide (rE r ≠ 4) || (s.c (rC r)).rrepl.isSome) && decide ((s.c (rC r)).rrepl ≠ some (rE r)) then
    s.onR r fun x => { x with held := false }
  else s

/-- Every unit and Reel of a cluster released. -/
def State.releaseCluster (s : State) (c : Nat) : State :=
  each (List.range 5) (fun e s => s.releaseReel (5 * c + e)) (each (List.range 9) (fun u s => s.releaseUnit (9 * c + u)) s)

def State.releaseRegion (s : State) (r : Nat) : State :=
  each (List.range 4) (fun i s => s.releaseCluster (4 * r + i)) s

/-- The end of the 64 fabric cycles of a reset (R396). -/
def State.resetRelease (s : State) (sc : Scope) : State :=
  if sc ∈ s.pw.held then
    let s := { s with pw := { s.pw with held := s.pw.held.filter fun x => x ≠ sc } }
    match sc with
    | .region r => s.releaseRegion r.val
    | .cluster c => s.releaseCluster c.val
    | .unit p => s.releaseUnit p.val
    | .reel r => s.releaseReel r.val
  else s

/-- A scope held in reset. -/
def State.hold (s : State) (sc : Scope) : State :=
  if sc ∈ s.pw.held then s else { s with pw := { s.pw with held := s.pw.held ++ [sc] } }

/-! ### Power domains (R386, R390) -/

/-- FPSTAT.LINK follows the FP_LINK input through every reset of a port (R197, R411). -/
def State.keepLinks (s t : State) : State :=
  each (List.range 16) (fun i t => t.setBit (pgPort i) 0x044 31 (s.rbit (pgPort i) 0x044 31)) t

/-- A frame port at reset: its transmissions end and its page and egress take their reset state. -/
def State.clearPort (s : State) (i : Nat) : State :=
  let t := (pageReset (pgPort i) (s.dropPort i)).onPort i fun _ => Port.reset
  t.setBit (pgPort i) 0x044 31 (s.rbit (pgPort i) 0x044 31)

/-- The frame path core at reset: every frame, queue, bucket, list and table is lost; region schedules are kept. -/
def State.clearCore (s : State) : State :=
  let s := { s with fp := { Fp.reset with lists := s.fp.lists.filter fun e => decide (144 ≤ e.1) }, tbl := [] }
  each (List.range 10) (fun i s => pageReset (0x020 + i) s) s

/-- The time base at 0 with every adjustment cleared; latches of TBNOWH and pulse state go with it (R243). The snap
target belongs to the Contact Sheet, and past times stay past. -/
def Tim.clear (x : Tim) : Tim := { Tim.reset with cyc := x.cyc, us := x.us, slow := x.slow, hist := x.hist, snapT := x.snapT }

/-- A domain loses power, going to SLEEP or OFF. With the fabric goes the power page, DONE of the transition included.
DEDUCED; log entry 25. -/
def State.powerOff (s : State) (d tgt : Nat) : State :=
  if d < 144 then ((s.resetUnit d).setDom d tgt).onC (cOf d) fun x => x.dropCopy (uOf d)
  else if d < 224 then (s.clearReel (d - 144) false).setDom d tgt
  else if d < 240 then ((s.saveSpare (d - 224)).clearCluster (d - 224) false).setDom d tgt
  else if d < 244 then (s.clearRegion (d - 240)).setDom d tgt
  else
    let t := s.setDom d tgt
    if d = 244 then
      let t := each [0x005, 0x006, 0x007, 0x008] pageReset t
      { t with shadow := [], irqs := 0, pw := { t.pw with go := false } }
    else if 246 ≤ d ∧ d < 262 then t.clearPort (d - 246)
    else if d = 262 then t.clearCore
    else if d = 263 then
      let t := pageReset 0x004 t
      { t with tim := { s.tim.clear with saved := if tgt = 3 then some (s.T, 0) else none } }
    else if 266 ≤ d then
      let t := t.linkDrop (d - 266)
      t.setL (d - 266) { t.l (d - 266) with tx := [] }
    else t

/-- The time base restarts from the slow clock after SLEEP, with COARSE set, or at 0 after OFF (R249). -/
def State.timeRestart (s : State) : State :=
  match s.tim.saved with
  | some (t, n) =>
    ({ s with tim := { s.tim with base := (t * 2 ^ 24 + n * 1953125 * 2 ^ 18) % 2 ^ 88, saved := none } }).setBit
      pgTime 0x06C 28 true
  | none => s

/-- A domain that had no power takes its reset state (R390); banks and region memory begin to be cleared (R289). -/
def State.powerOn (s : State) (d tgt : Nat) : State :=
  let s := s.setDom d tgt
  if d < 144 then ((s.clearUnit d).getStore d).releaseUnit d
  else if d < 224 then s.releaseReel (d - 144)
  else if d < 240 then s.onC (d - 224) fun x => { x with clearing := List.range 8 }
  else if d < 244 then
    { s with rclear := (s.rclear.filter fun i => i / 4 ≠ d - 240) ++ (List.range 4).map fun i => 4 * (d - 240) + i,
             rot := Tab.set 0 s.rot (d - 240) 0 }
  else if d = 263 then s.timeRestart
  else s

/-! ### Whole-die resets (R396) -/

/-- Pages of the Safelight. -/
def safePage (p : Nat) : Bool := decide (p < 4 ∨ p = 9)

/-- The host's access that waits at a Reel page or for a control store, outside the record of page accesses. -/
def State.hostOut (s : State) : List PgReq :=
  (s.reels.flatMap (fun e => e.2.pq) ++ s.clus.flatMap fun e => e.2.csq).filter fun q => decide (q.m = .host)

/-- Every part but the Safelight in its reset state, with domain states `dom`. Kept: banks and region memory as they
stand, mapped rows, input levels, and the Safelight; the host's access is still to be answered (R408). -/
def State.clearDie (s : State) (dom : Tab Nat) : State :=
  let bits := (List.range 16).flatMap fun c => (keptRegs c).map fun (p, o, m) => (p, o, s.reg p o &&& m)
  let t := { s with
    regs := Tab.drop (fun k => !safePage (k / 1024)) s.regs,
    cnt := [], shadow := [], units := [], reels := [], pgs := { s.pgs with host := s.hostOut ++ s.pgs.host },
    clus := s.clus.map fun (e : Nat × Clu) => (e.1, { Clu.reset with rows := e.2.rows, clearing := e.2.clearing }),
    fp := Fp.reset, tbl := [], tim := s.tim.clear,
    hreqs := s.hreqs.map fun (q : HReq) => { q with dead := true },
    hrq := [], links := [], arb := [], rot := [], irqs := 0, saf := { s.saf with flight := none },
    pw := { Pw.reset with dom := dom, coreOk := s.pw.coreOk, ckack := s.pw.ckack } }
  let t := { t with clus := t.clus.filter fun e => e.2 ≠ Clu.reset }
  let t := each bits (fun (p, o, v) t => t.setReg p o (t.reg p o ||| v)) t
  s.keepLinks t

/-- Every lock bit of the Safelight's pages cleared, and IDSCRATCH and IDSPARE reset (R423, R426). -/
def State.unlockSafe (s : State) : State :=
  ((each [0, 1, 2, 3, 9] (fun p s => s.setBit p pgCtl 31 false) s).setReg 0 0x054 0).setReg 0 0x050 0

/-- The Developer's sequence has to be run, and nothing holds the die in reset (R329, R363, R402). -/
def State.bootWaits (s : State) : Bool :=
  s.dev.due && !s.saf.por && !s.lou.low && s.pw.coreOk && !s.testMode

/-- Step 2 of R329 uses the clock of request pair `i`: DL only where a die link is in use (R34, R383). -/
def State.bootClk (s : State) (i : Nat) : Bool := decide (i < 6) || !(below 3 s.linkUsed).isEmpty

/-- Step 2 of R329 powers a domain up (R393). -/
def State.bootLoads (s : State) : Bool :=
  (List.range 265).any (fun d => decide (rankOf (s.dom d) ≤ 1))
    || (List.range 3).any fun j => s.linkUsed j && decide (rankOf (s.dom (266 + j)) ≤ 1)

/-- Step 1 of R329 is over in the cycle after a reset where the straps are good, and STATE shows step 2, which waits for its
handshakes and the march test. DEDUCED; log entry 24. -/
def State.bootStep (s : State) : State :=
  if s.bootWaits && !strapFault s.saf.straps then s.setFld 0x002 0x040 28 4 1 else s

/-- PCREQ rises in the first cycle after a reset that leaves step 2 of R329 a domain to power up, and before each group of
power-up steps of a transition (R393). -/
def State.bootAsk (s : State) : State :=
  let s := s.bootStep
  if s.bootWaits && s.bootLoads && !s.pw.acked then { s with pw := { s.pw with pcreq := true } } else s.pwAsk

/-- Domains that a warm reset leaves without power until step 2 of R329. -/
def State.stillDown (s : State) : Tab Nat :=
  (below 265 fun d => decide (rankOf (s.dom d) ≤ 1)).map fun d => (d, s.dom d)

/-- The Developer page in its reset state but for its retained fields (R331), and the recovery page in its own; what their
commands had still to do is dropped. -/
def State.resetDev (s : State) : State :=
  let keep := s.reg 0x002 0x040 &&& 0x00F80000
  let regs := [0x054, 0x06C, 0x070].map fun o => (o, s.reg 0x002 o)
  let t := pageReset 0x009 (pageReset 0x002 s)
  let t := each regs (fun (o, v) t => t.setReg 0x002 o v)
    (t.setReg 0x002 0x040 (t.reg 0x002 0x040 &&& ~~~0x00F80000 ||| keep))
  { t with saf := { t.saf with dvBusy := false, rcBusy := false, dv := Prog.empty, rc := Prog.empty, rcWait := [] } }

/-- Every switched domain OFF. -/
def allOff : Tab Nat := (List.range 266).map fun d => (d, 4)

/-- Clusters and regions whose banks or region memory lost their contents begin to be cleared when the whole die comes
back (R289, R329 step 2). -/
def State.clearLost (s t : State) : State :=
  let t := each (List.range 16) (fun c t =>
    if rankOf (s.dom (224 + c)) ≤ 1 then t.onC c fun x => { x with clearing := List.range 8 } else t) t
  { t with rclear := (List.range 16).filter fun i =>
      decide (i ∈ t.rclear) || decide (rankOf (s.dom (240 + i / 4)) ≤ 1) }

/-- STATE of the session. -/
def State.lpState (s : State) : Nat := s.rfld 0x003 0x040 28 4

/-- Every watchpoint disabled and the Loupe's pending requests withdrawn (R370). -/
def State.dropDebug (s : State) : State :=
  each (List.range 144) (fun p s =>
    let s := each (List.range 4) (fun n s => s.setBit (pgUnit p) (0x570 + 32 * n) 31 false) s
    if (s.u p).dbg.byLoupe then
      s.onU p fun x => x.setD fun d => { d with req := false, byLoupe := false }
    else s) s

/-- The Loupe session closed for `reason`; the close of an open one ends debugging (R370, R371). -/
def State.sessionEnd (s : State) (reason : Nat) : State :=
  let s := if s.lpState = 4 then s.dropDebug else s
  (s.setFld 0x003 0x040 28 4 0).setFld 0x003 0x040 24 4 reason |>.flag 0x003 1

/-- A LOUPE_SESSION record (R371). -/
def State.logSession (s : State) (event reason : Nat) : State :=
  s.logDie 0x63 (w32 (reason * 256 + event)) (w32 (s.life * 256 + s.rfld 0x003 0x040 8 4))

/-- A reset of the die or a restart of the management unit ends a session, with a close record when it was open; any
other attempt in progress ends as refused (R370, R371). DEDUCED; log entry 47. -/
def State.sessionKill (s : State) (reason : Nat) : State :=
  let st := s.lpState
  if st = 0 then s
  else
    let s := s.sessionEnd reason
    let s := { s with lou := { s.lou with darkBanks := false } }
    s.logSession (if st = 4 then 3 else 2) reason

/-- The fallback of R334: the trial slot is excluded when a warm reset finds TRIAL = 1 and TRIES = 3. -/
def State.fallback (s : State) : State :=
  if s.rbit 0x002 0x040 27 && decide (s.rfld 0x002 0x040 20 2 = 3) then
    let t := s.rfld 0x002 0x040 19 1
    let q := s.reg 0x002 0x054
    ((s.setBit 0x002 0x040 (22 + t) true).setReg 0x002 (0x06C + 4 * t) q).logDie 0x08 (w32 t) q
  else s

/-- A warm reset with its source (R355, R363, R396). DEDUCED; log entry 54. -/
def State.warm (s : State) (src : Nat) : State :=
  let s := s.logDie 0x02 (w32 src) 0
  let s := s.fallback
  let s := if src = 3 then s.logDie 0x16 (s.reg 0x001 0x290) 0 else s
  let s := s.sessionKill 7
  let s := (s.clearLost (s.clearDie (if s.pw.coreOk then s.stillDown else allOff))).unlockSafe
  let s := (s.setReg 0x001 0x280 0x00008000).setReg 0x001 0x284 0
  let s := s.setFld 0x001 0x040 24 4 src
  let s := s.resetDev
  { s with saf := { s.saf with safe := false, up := Prog.empty },
           dev := { s.dev with due := true, pon := s.dev.due && s.dev.pon, upOpen := false } }

/-- The core supply returns: a core power-on reset (R396). -/
def State.corePor (s : State) (straps : Straps) : State :=
  let s := s.clearDie allDown
  let s := each (List.range 16) (fun c s => s.setC c Clu.reset) s
  let s := each (List.range 16) (fun c s => each (List.range 8) (fun b s => s.setReg (pgBanks c) (0x040 + 4 * b) 0) s) s
  let s := s.unlockSafe.resetDev
  { s with mem := [], synd := [], rclear := [], pw := { s.pw with coreOk := true },
           saf := { s.saf with straps := straps },
           dev := { s.dev with due := true, pon := true, mapped := false } }

/-- The core supply falls: every switched domain goes OFF (R394). DESIGN CHOICE; log entry 26. -/
def State.coreOff (s : State) : State :=
  let s := (each (List.range 16) (fun c s => s.saveSpare c) s).clearDie allOff
  { s with pw := { s.pw with coreOk := false } }

/-- Accesses of the host register slave that a page, a Reel or a control store has not yet answered: at most one (R408). -/
def State.hostIn (s : State) : List PgReq := (s.pgs.wait.filter fun q => decide (q.m = .host)) ++ s.hostOut

/-- VSL falls: the whole die enters power-on reset; OTP, flash and input levels stay (R341, R396, R400). -/
def State.slPor (s : State) : State :=
  let t := { State.reset with
    pending := s.pending, draws := s.draws, pads := s.pads, rdata := s.rdata, rresp := s.rresp,
    pgs := { PgSt.reset with host := s.hostIn ++ s.pgs.host },
    hreqs := s.hreqs.map fun (q : HReq) => { q with dead := true },
    saf := { Saf.reset with por := true, pgood := false, otp := s.saf.otp, flash := s.saf.flash, vpp := s.saf.vpp, tmode := s.saf.tmode,
                            repairs := [] },
    dev := Dev.reset,
    lou := { Lou.reset with low := s.lou.low },
    pw := { Pw.reset with dom := if s.pw.coreOk then allDown else allOff, coreOk := s.pw.coreOk, ckack := s.pw.ckack } }
  s.keepLinks t

/-- A fabric cycle of the Safelight's power-on reset: the regulator output comes into range at a time that no command tells
(R341). DESIGN CHOICE; log entry 26. -/
def State.porTick (s : State) : State :=
  if s.saf.pgood then s
  else { s with saf := { s.saf with pgood := Config.inRange s.draws }, draws := s.draws + 1 }

/-- The release of the Safelight's power-on reset: straps latched, SL_POR logged (R32, R341, R349). SL_PGOOD is 1 at the
latest from here on. DESIGN CHOICE; log entry 26. -/
def State.slRelease (s : State) (straps : Straps) : State :=
  if s.saf.por then
    ({ s with saf := { s.saf with por := false, pgood := true, straps := straps } }).logDie 0x01 0 0
  else s

end Sys2Proof.Machine
end

