-- ==== Sys2Proof/Machine/Store.lean ====
section
/-! DEFINITION. The control store and decode table: CSIDX, CSDATA and CSCTL (R114 to R116, R129, R130), and the
microcode sections of an image (R131 to R133). -/

namespace Sys2Proof.Machine

/-- A WCS microword written in the copy of one unit, with good check bits (R115). -/
def Clu.putWcs (x : Clu) (u i : Nat) (w : BitVec 128) : Clu :=
  let k := 1024 * u + i
  { x with wcs := Tab.set 0 x.wcs k w, wcsSynd := Tab.set 0 (Tab.set 0 x.wcsSynd (2 * k) 0) (2 * k + 1) 0 }

/-- A WCS microword written in every powered unit of the cluster (R129). -/
def State.setWcs (s : State) (c i : Nat) (w : BitVec 128) : State :=
  s.onC c fun x => each (below 9 fun u => s.hasPower c u) (fun u x => x.putWcs u i w) x

/-- A decode-table entry written in every powered unit of the cluster (R127, R129). -/
def State.setDt (s : State) (c i : Nat) (v : Word) : State :=
  s.onC c fun x =>
    each (below 9 fun u => s.hasPower c u)
      (fun u x => { x with dt := Tab.set 0 x.dt (32 * u + i) (v &&& 0xFF3FF0FF) }) x

/-- Microword `i` of the WCS as unit `p` reads its copy: corrected, whether it is uncorrectable, and the state with CECNT
(R115, R116). DEDUCED; log entry 44. -/
def State.readWcs (s : State) (p i : Nat) : BitVec 128 × Bool × State :=
  let x := s.c (cOf p)
  let k := 1024 * uOf p + i
  let w := Tab.get 0 x.wcs k
  let a := Tab.get 0 x.wcsSynd (2 * k)
  let b := Tab.get 0 x.wcsSynd (2 * k + 1)
  let n := b2n (decide (synClass a = .corr)) + b2n (decide (synClass b = .corr))
  (fixWord (w.extractLsb' 64 64) b ++ fixWord (w.extractLsb' 0 64) a,
    decide (synClass a = .unc) || decide (synClass b = .unc),
    if n = 0 then s else s.addSat (pgCommon (cOf p)) 0x194 0 16 n)

/-- The microword at a microaddress as the page reads it, from the lowest-numbered powered unit (R114, R129). -/
def State.csWord (s : State) (c ix : Nat) : BitVec 128 × State :=
  if ix < 0x800 then (Config.romWord ix, s)
  else if ix < 0xC00 then
    match s.csUnit c with
    | some u =>
      let (w, _, s) := s.readWcs (9 * c + u) (ix - 0x800)
      (w, s)
    | none => (0, s)
  else (0, s)

/-- Word `j` of a microword. -/
def wordOf (w : BitVec 128) (j : Nat) : Word := w.extractLsb' (32 * j) 32

/-- A powered unit of the cluster runs a customer instruction, so that a write of the control store waits (R130). -/
def State.csBusy (s : State) (c : Nat) : Bool :=
  (List.range 9).any fun u => s.hasPower c u && !(s.u (9 * c + u)).locked && (s.u (9 * c + u)).micro.isSome

def csIndex (s : State) (c : Nat) : Nat := s.rfld (pgCommon c) 0x180 0 12
def csNext (s : State) (c : Nat) : State := s.setFld (pgCommon c) 0x180 0 12 ((csIndex s c + 1) % 0x1000)

/-- A write to the cluster common page (R127, R129, R202). -/
def commonWrite (c off : Nat) (v : Word) (s : State) : State :=
  let p := pgCommon c
  if 0x100 ≤ off ∧ off < 0x180 then s.setDt c ((off - 0x100) / 4) v
  else if off = 0x190 then
    let ix := csIndex s c
    let w : BitVec 128 := v ++ s.reg p 0x18C ++ s.reg p 0x188 ++ s.reg p 0x184
    let s := if 0x800 ≤ ix ∧ ix < 0xC00 then s.setWcs c (ix - 0x800) w else s.setBit p 0x194 31 true
    csNext s c
  else genWrite .common p off v s

/-- A read of the cluster common page (R129). -/
def commonRead (c off : Nat) (peek : Bool) (s : State) : Word × State :=
  if 0x100 ≤ off ∧ off < 0x180 then (((s.csUnit c).map fun u => s.dtOf (9 * c + u) ((off - 0x100) / 4)).getD 0, s)
  else if 0x184 ≤ off ∧ off < 0x194 then
    let j := (off - 0x184) / 4
    if peek then (wordOf (s.csWord c (csIndex s c)).1 j, s)
    else if j = 0 then
      let (w, s) := s.csWord c (csIndex s c)
      (wordOf w 0, s.onC c fun x => { x with csLatch := w })
    else (wordOf (s.c c).csLatch j, if j = 3 then csNext s c else s)
  else genRead .common (pgCommon c) off peek s

/-! ### Microcode sections (R131 to R133) -/

/-- A record of a section: TYPE, LEN and payload. -/
structure Rec where
  typ : Nat
  len : Nat
  pay : List Byte
  deriving DecidableEq, Repr

/-- The records of a body, which END closes exactly at its last byte; the offset of END's record header. -/
def recsOf : Nat → Nat → List Byte → Option (List Rec × Nat)
  | 0, _, _ => none
  | n + 1, pos, l =>
    if l.length < 8 then none
    else
      let t := leNat (l.take 2)
      let len := leNat ((l.drop 2).take 2)
      let rest := l.drop 8
      if rest.length < len then none
      else if t = 0xFF then (if rest.length = len then some ([⟨t, len, rest⟩], pos) else none)
      else
        match recsOf n (pos + 8 + len) (rest.drop len) with
        | some (rs, e) => some (⟨t, len, rest.take len⟩ :: rs, e)
        | none => none

/-- Check 0x04 of a record. -/
def Rec.lenOk (r : Rec) : Bool :=
  decide (r.len % 8 = 0) &&
    (match r.typ with
     | 1 => decide (8 ≤ r.len) && decide (r.len = 8 + 16 * leNat ((r.pay.drop 2).take 2))
     | 2 | 0xFF => decide (r.len = 8)
     | _ => false)

/-- The checks of R133 on a section: the reason of the first that fails, or CLMASK and the records. -/
def imgSection (l : List Byte) : Nat × Nat × List Rec :=
  let f := fun (o n : Nat) => leNat ((l.drop o).take n)
  let body := f 0x0C 4
  if l.length < 32 ∨ f 0 4 ≠ 0x3158434D ∨ f 4 2 ≠ 1 ∨ f 6 2 ≠ 0x20 ∨ f 8 2 ≠ 0x0201 then (1, 0, [])
  else if (crc32c (l.take 0x1C)).toNat ≠ f 0x1C 4 then (2, 0, [])
  else if f 0x0A 2 = 0 ∨ body % 8 ≠ 0 ∨ l.length < 0x20 + body then (3, 0, [])
  else
    match recsOf (body / 8 + 1) 0 ((l.drop 0x20).take body) with
    | none => (3, 0, [])
    | some (rs, e) =>
      if !rs.all Rec.lenOk then (4, 0, [])
      else if rs.any (fun r => decide (r.typ = 1)
          && decide (0x400 < leNat (r.pay.take 2) + leNat ((r.pay.drop 2).take 2))) then (5, 0, [])
      else if rs.any (fun r => decide (r.typ = 2) && (decide (31 < leNat (r.pay.take 1))
          || decide (w32 (leNat (r.pay.drop 4)) &&& ~~~0xFF3FF0FF ≠ 0))) then (6, 0, [])
      else if (match rs.getLast? with
          | some r => decide ((crc32c ((l.drop 0x20).take e)).toNat ≠ leNat (r.pay.take 4))
          | none => true) then (7, 0, [])
      else (0, f 0x0A 2, rs)

/-- A section applied to the clusters of CLMASK for which `want` holds, or refused with MCODE_REJECT (R133). -/
def State.applySection (s : State) (l : List Byte) (want : Nat → Bool) : State :=
  match imgSection l with
  | (0, mask, rs) =>
    each (below 16 fun c => mask.testBit c && want c) (fun c s =>
      let s := each rs (fun r s =>
        if r.typ = 1 then
          let st := leNat (r.pay.take 2)
          each (List.range (leNat ((r.pay.drop 2).take 2))) (fun i s =>
            s.setWcs c (st + i) (BitVec.ofNat 128 (leNat ((r.pay.drop (8 + 16 * i)).take 16)))) s
        else s) s
      each rs (fun r s => if r.typ = 2 then s.setDt c (leNat (r.pay.take 1)) (w32 (leNat (r.pay.drop 4))) else s) s) s
  | (n, _, _) => s.logDie 0x07 (w32 n) (w32 (leNat ((l.drop 0x10).take 4)))

end Sys2Proof.Machine
end

