-- ==== Sys2Proof/Machine/Developer.lean ====
section
/-! DEFINITION. The Developer: boot flash and images (R319 to R328), the sequence from reset (R329, R330), trial and
fallback (R333, R334), Developer commands (R332), RECOVERY (R337 to R339), the update path (R359, R360) and the key
store (R352). -/

namespace Sys2Proof.Machine

def pgDev : Nat := 0x002
def pgSafe : Nat := 0x001
def pgRec : Nat := 0x009

/-! ### Memory still being cleared (R289) -/

/-- Stores of RCDATA whose segments are clear are made, oldest first (R289, R338). -/
def State.rcStores (s : State) : State :=
  let wait := fun (e : Nat × Word) => s.segBusy (e.1 / 0x200000) (e.1 % 0x200000)
  each (s.saf.rcWait.filter fun e => !wait e) (fun e s => (s.memMerge (0x800000 + e.1) 4 e.2.toNat).2)
    { s with saf := { s.saf with rcWait := s.saf.rcWait.filter wait } }

/-- Clearing of the region memory of the regions `l` is waited for (R289). -/
def State.waitSegs (s : State) (l : List Nat) : State :=
  (each (s.rclear.filter fun i => decide (i / 4 ∈ l)) (fun i s => s.segClear (i / 4) (i % 4)) s).rcStores

/-- Clearing of the banks and region memory of the regions `l` is waited for (R289). -/
def State.waitClear (s : State) (l : List Nat) : State :=
  (each (below 16 fun c => decide (c / 4 ∈ l)) (fun c s =>
    each ((s.c c).clearing) (fun b s => s.bankClear c b) s) s).waitSegs l

/-! ### Key store (R352) -/

def State.key (s : State) (i : Nat) : Option Key := Tab.get none s.saf.keys i

/-- KSDATA zeroed, as after every command. -/
def State.ksClear (s : State) : State := each (List.range 12) (fun i s => s.setReg pgSafe (0x300 + 4 * i) 0) s

/-- Every key erased: a command in progress ends with ZEROED, and KEY_ZEROIZE is logged with its cause. -/
def State.zeroize (s : State) (cause : Nat) : State :=
  let s := if s.saf.ksBusy then ((s.setFld pgSafe 0x34C 0 8 14).flag pgSafe 6).ksClear else s
  ({ s with saf := { s.saf with keys := [], ksBusy := false } }).logDie 0x61 (w32 cause) 0

/-- KSDATA as 48 bytes, byte 0 in [7:0] of word 0. -/
def State.regBytes (s : State) (p off n : Nat) : List Byte :=
  (List.range n).flatMap fun i => natLE (s.reg p (off + 4 * i)).toNat 4

/-- MAC: the result code, and the state with KSMAC. -/
def State.ksMac (s : State) (slot : Nat) : Nat × State :=
  let a := (s.reg pgSafe 0x344).toNat
  let n := s.rfld pgSafe 0x348 0 13
  if n = 0 ∨ 4096 < n ∨ a % 8 ≠ 0 ∨ a < 0x02000000 ∨ 0x02800000 < a + n then (6, s)
  else
    match s.key slot with
    | none => (11, s)
    | some k =>
      if !k.mac then (12, s)
      else
        let o := a - 0x02000000
        if !s.regUp (o / 0x200000) || !s.regUp ((o + n - 1) / 0x200000) then (13, s)
        else
          let s := s.waitSegs ((List.range 4).filter fun r => decide (o / 0x200000 ≤ r ∧ r ≤ (o + n - 1) / 0x200000))
          let words := (List.range ((n + 7) / 8)).map fun i => 0x800000 + o + 8 * i
          let msg := (words.flatMap fun w => natLE (s.word8 w).toNat 8).take n
          let s := each words (fun w s => s.countEcc w (synClass (s.syn w))) s
          let d := hmac384 k.bytes msg
          (0, each (List.range 12) (fun i s => s.setReg pgSafe (0x350 + 4 * i) (w32 (leNat ((d.drop (4 * i)).take 4)))) s)

/-- A write of KSCMD: discarded while a command runs; otherwise the command takes the staging and runs; KSDONE follows at its
end, which zeroes what has been staged meanwhile. DESIGN CHOICE; log entry 22. -/
def State.kscmd (s : State) (v : Word) : State :=
  if s.saf.ksBusy then s
  else
    let s := s.setReg pgSafe 0x340 (v &&& 0x00030F07)
    let slot := fld v 8 4
    let put := fun (k : Option Key) (s : State) =>
      { s with saf := { s.saf with keys := Tab.set none s.saf.keys slot k } }
    let (code, s) := match fld v 0 3 with
      | 1 => (0, put (some { bytes := s.regBytes pgSafe 0x300 12, loupe := bit v 16, mac := bit v 17 }) s)
      | 2 => (0, put none s)
      | 3 => (0, s.zeroize 3)
      | 4 => s.ksMac slot
      | _ => (2, s)
    let s := (s.setFld pgSafe 0x34C 0 8 code).ksClear
    { s with saf := { s.saf with ksBusy := true } }

def State.ksDone (s : State) : State :=
  if s.saf.ksBusy then (({ s with saf := { s.saf with ksBusy := false } }).flag pgSafe 6).ksClear else s

/-- KSVALID. -/
def State.ksValid (s : State) : Word := w32 ((below 16 fun i => (s.key i).isSome).foldl (fun a i => a + 2 ^ i) 0)

/-! ### Boot flash (R320, R324) -/

def State.fl (s : State) (a : Nat) : Byte := Tab.get 0xFF s.saf.flash a
def State.flBytes (s : State) (a n : Nat) : List Byte := (List.range n).map fun i => s.fl (a + i)
def State.setFl (s : State) (a : Nat) (b : Byte) : State :=
  { s with saf := { s.saf with flash := Tab.set 0xFF s.saf.flash a b } }

/-- Slot size S, and base of a slot (R324). -/
def State.slotSize (s : State) : Nat := 2 ^ (23 + s.otpFld 1552 3)
def State.slotBase (s : State) (t : Nat) : Nat := t * s.slotSize

/-- A sector of 64 KiB erased to 0xFF. -/
def State.flErase (s : State) (a : Nat) : State :=
  { s with saf := { s.saf with flash := Tab.drop (fun i => decide (a ≤ i ∧ i < a + 0x10000)) s.saf.flash } }

/-- A byte programmed, which only clears bits, and whether it reads back as written; one that is `bad` stays as it was. -/
def State.flOne (s : State) (a : Nat) (b : Byte) (bad : Bool) : Bool × State :=
  if bad then (false, s) else (decide (s.fl a &&& b = b), s.setFl a (s.fl a &&& b))

/-! ### Images (R325 to R328) -/

/-- An image as a reader of `n` bytes at a slot offset. -/
abbrev Img := Nat → Nat → List Byte

def State.slotImg (s : State) (t : Nat) : Img := fun o n => s.flBytes (s.slotBase t + o) n

/-- Bytes of region memory as they read after correction (R228). -/
def State.fixedBytes (s : State) (k n : Nat) : List Byte :=
  (((List.range ((k % 8 + n + 7) / 8)).flatMap fun i => natLE (s.word8 (k / 8 * 8 + 8 * i)).toNat 8).drop (k % 8)).take n

/-- The reads of the storage words of `n` bytes from a word boundary counted (R228, R273). -/
def State.countReads (s : State) (k n : Nat) : State :=
  each (List.range ((n + 7) / 8)) (fun i s => s.countEcc (k + 8 * i) (synClass (s.syn (k + 8 * i)))) s

/-- The staged image (R338, R339). -/
def State.stageImg (s : State) : Img := fun o n => s.fixedBytes (0x800000 + o) n

def Img.num (m : Img) (o n : Nat) : Nat := leNat (m o n)

/-- A load entry (R326). -/
structure Load where
  off : Nat
  len : Nat
  dest : Nat
  mask : Nat
  typ : Nat
  last : Nat
  deriving DecidableEq, Repr

def loadAt (m : Img) (i : Nat) : Load :=
  let f := fun (o n : Nat) => leNat (m (0x20 + 16 * i + o) n)
  ⟨f 0 4, f 4 4, f 8 4, f 12 2, f 14 1, f 15 1⟩

/-- A used load entry holds the values R326 requires; a staged image holds no TYPE 2 entry (R339). -/
def Load.ok (e : Load) (body : Nat) (staged : Bool) : Bool :=
  decide (e.off % 8 = 0 ∧ e.len % 8 = 0 ∧ e.dest % 8 = 0 ∧ e.len ≠ 0 ∧ e.off + e.len ≤ body ∧ e.last = 0) &&
    (match e.typ with
     | 1 => decide (e.dest + e.len ≤ 0x80000 ∧ e.mask ≠ 0)
     | 2 => !staged && decide (0x02000000 ≤ e.dest ∧ e.dest + e.len ≤ 0x02800000 ∧ e.mask = 0)
     | 3 => decide (e.dest = 0 ∧ e.mask = 0)
     | _ => false)

def entryOk (e : Nat) : Bool :=
  decide (e % 64 = 0) && (decide (e < 0x80000) || decide (0x01000000 ≤ e ∧ e < 0x01200000)
    || decide (0x02000000 ≤ e ∧ e < 0x02800000))

/-- Check 2: header fields and load entries, in a slot of `size` bytes. -/
def headerOk (m : Img) (size : Nat) (staged : Bool) : Bool :=
  let f := fun (o n : Nat) => leNat (m o n)
  let nload := f 0x0E 2
  let body := f 0x10 4
  decide (f 0 4 = 0x4D495644 ∧ f 4 2 = 1 ∧ f 6 2 = 0x200 ∧ f 8 2 = 0x0201 ∧ f 0x0A 1 ≤ 3 ∧ f 0x0B 1 = 0)
    && decide (1 ≤ nload ∧ nload ≤ 16 ∧ body % 64 = 0 ∧ body + 0x240 ≤ size ∧ f 0x18 8 = 0 ∧ f 0x180 32 = 0)
    && entryOk (f 0x14 4)
    && (List.range 16).all fun i =>
        if i < nload then (loadAt m i).ok body staged else decide (f (0x20 + 16 * i) 16 = 0)

/-- The image digest: SHA-384 of the signed data. -/
def imgDigest (m : Img) : List Byte := sha384 (m 0 0x1A0 ++ m 0x200 (leNat (m 0x10 4)))

/-- Checks 2 to 8 of R328, with check 6 against `digest` where one is given: 0 or the reason. -/
def State.checkImg (s : State) (m : Img) (size : Nat) (staged : Bool) (digest : Option (List Byte)) : Nat :=
  let k := leNat (m 0x0A 1)
  let pub := m 0x120 96
  if !headerOk m size staged then 2
  else if !s.keyProg k then 3
  else if leNat (sha384 pub) ≠ s.otpFld (384 * k) 384 then 4
  else if s.keyRevoked k then 5
  else if digest.isSome && decide (digest ≠ some (imgDigest m)) then 7
  else if !ecdsaOk pub (m 0x1A0 96) (imgDigest m) then 6
  else if leNat (m 0x0C 2) < s.rollV then 8
  else 0

/-- State of the record of a slot: 0 empty, 1 partial, 2 complete (R327). -/
def State.recState (s : State) (t : Nat) : Nat :=
  let l := s.flBytes (s.slotBase t + s.slotSize - 0x40) 0x40
  if l.all (fun b => decide (b = 0xFF)) then 0
  else if leNat (l.take 4) = 0x51455344 ∧ leNat ((l.drop 0x38).take 4) = 0
      ∧ leNat (l.drop 0x3C) = (crc32c (l.take 0x3C)).toNat then 2
  else 1

def State.recSeq (s : State) (t : Nat) : Nat := leNat (s.flBytes (s.slotBase t + s.slotSize - 0x3C) 4)
def State.recDigest (s : State) (t : Nat) : List Byte := s.flBytes (s.slotBase t + s.slotSize - 0x38) 48

/-! ### Loading and starting (R329 steps 5 and 6, R330, R392) -/

/-- One load entry applied to the regions `l`. -/
def State.applyLoad (s : State) (m : Img) (l : List Nat) (e : Load) : State :=
  let bytes := m (0x200 + e.off) e.len
  match e.typ with
  | 1 => each (below 16 fun c => e.mask.testBit c && decide (c / 4 ∈ l)) (fun c s => s.setBytes (bankKey c e.dest) bytes) s
  | 2 =>
    each l (fun r s =>
      let lo := max e.dest (0x02000000 + 0x200000 * r)
      let hi := min (e.dest + e.len) (0x02200000 + 0x200000 * r)
      s.setBytes (0x800000 + (lo - 0x02000000)) ((bytes.drop (lo - e.dest)).take (hi - lo))) s
  | _ => s.applySection bytes fun c => decide (c / 4 ∈ l)

/-- Every load entry in order, for the regions `l`; the entry address latched. -/
def State.applyImg (s : State) (m : Img) (l : List Nat) : State :=
  let s := s.waitClear l
  let s := each (List.range (leNat (m 0x0E 2))) (fun i s => s.applyLoad m l (loadAt m i)) s
  { s with dev := { s.dev with entry := w32 (leNat (m 0x14 4)), version := leNat (m 0x0C 2) } }

def State.setDv (s : State) (lo len v : Nat) : State := s.setFld pgDev 0x040 lo len v

/-- Step 6: every working unit and Reel of the die starts and the system watchdog runs (R330, R355). -/
def State.startAll (s : State) : State :=
  let s := (s.setDv 28 4 5).setDv 8 8 0
  let s := s.setBit pgSafe 0x280 31 true
  let s := { s with saf := { s.saf with swd := max 1 (s.rfld pgSafe 0x280 0 24), swdWarned := false } }
  each (List.range 4) (fun r s => s.releaseRegion r) s

/-- No unit and no Reel runs: those that a transition has left out of reset, in retention included, take their reset state
(R337). DEDUCED; log entry 24. -/
def State.stopAll (s : State) : State :=
  let s := each (below 144 fun p => decide ((s.u p).stat ≠ .held)) (fun p s => s.resetUnit p) s
  each (below 80 fun r => !(s.r r).held) (fun r s => s.clearReel r true) s

/-- RECOVERY with a reason (R337). TRIAL is 0 since the reset, and a wake that comes to it leaves it (R392). -/
def State.recovery (s : State) (reason : Nat) : State :=
  (((s.stopAll).setDv 28 4 6).setDv 8 8 reason).setDv 25 2 3

/-- The reason of a RECOVERY for want of an image (R328). -/
def State.noImage (s : State) : State := s.recovery (if s.life = 2 then 4 else 2)

/-! ### The sequence from reset (R329) -/

/-- DVCNT and DVKEY as the OTP stands. -/
def State.otpRegs (s : State) : State :=
  let cnt := s.otpOnes 1696 128 * 2 ^ 16 + s.otpOnes 1568 128 * 2 ^ 8 + s.rollV
  let m := fun (f : Nat → Bool) => (below 4 f).foldl (fun a i => a + 2 ^ i) 0
  (s.setReg pgDev 0x058 (w32 cnt)).setReg pgDev 0x05C (w32 (s.life * 2 ^ 8 + m s.keyProg * 2 ^ 4 + m s.keyRevoked))

/-- The clear bits of half `h` of LIFECYCLE (R323). -/
def State.lifeBits (s : State) (h : Nat) : List Nat := ((List.range 4).map fun i => 1544 + 4 * h + i).filter fun i => !s.otpBit i

/-- Lagging copies and partial fields completed, or OTP_LAG (R322, R323). -/
def State.otpBoot (s : State) (bad : Option Nat) : State :=
  let a := s.otpOnes 1568 128
  let b := s.otpOnes 1696 128
  let s :=
    if a = b then s
    else if s.saf.vpp then (s.otpProg (s.rollBits s.rollV) bad).2
    else s.logDie 0x05 (w32 (a * 256 + b)) 0
  let n := s.otpOnes 1544 8
  let s :=
    if !s.saf.vpp then s
    else if 1 ≤ n ∧ n ≤ 3 then (s.otpProg (s.lifeBits 0) bad).2
    else if 5 ≤ n ∧ n ≤ 7 then (s.otpProg (s.lifeBits 1) bad).2
    else s
  s.otpRegs

/-- Step 3 for a slot: DVSLOT and DVSEQ from its record and header; bit `t` of `scan` is a timeout in the record read,
bit `2 + t` one in the header read. The end of an exclusion (R334). -/
def State.scanSlot (s : State) (t : Nat) (scan : BitVec 4) : State :=
  let lateR := bit scan t
  let late := lateR || bit scan (2 + t)
  let st := if late then 1 else s.recState t
  let seq := if lateR then 0 else s.recSeq t
  let ver := if late then 0 else leNat (s.slotImg t 0x0C 2)
  let rej := if late then 0x0B else if st = 2 then 0x0C else 1
  let s := (s.setReg pgDev (0x044 + 8 * t) (w32 (st * 2 ^ 30 + rej * 2 ^ 16 + ver))).setReg pgDev (0x048 + 8 * t) (w32 seq)
  if s.rbit pgDev 0x040 (22 + t) && !late && (decide (st ≠ 2) || decide (w32 seq ≠ s.reg pgDev (0x06C + 4 * t))) then
    s.setBit pgDev 0x040 (22 + t) false
  else s

/-- A slot is a candidate. -/
def State.candidate (s : State) (t : Nat) : Bool :=
  decide (s.rfld pgDev (0x044 + 8 * t) 30 2 = 2)

/-- Candidates in descending SEQ, slot A first on a tie. -/
def State.candidates (s : State) : List Nat :=
  let l := if (s.reg pgDev 0x048).toNat < (s.reg pgDev 0x050).toNat then [1, 0] else [0, 1]
  l.filter s.candidate

/-- The checks of R328 on a slot. -/
def State.examine (s : State) (t : Nat) (exam : BitVec 2) : Nat :=
  if s.rbit pgDev 0x040 (22 + t) && decide (s.reg pgDev (0x048 + 8 * t) = s.reg pgDev (0x06C + 4 * t)) then 9
  else if bit exam t then 0x0B
  else
    match s.checkImg (s.slotImg t) s.slotSize false (some (s.recDigest t)) with
    | 0 => if s.life = 2 then 0x0A else 0
    | n => n

/-- Step 4: the first candidate that passes is accepted; every examined slot takes its REJECT. -/
def State.selectImg (s : State) (exam : BitVec 2) : List Nat → Option Nat × State
  | [] => (none, s)
  | t :: l =>
    let n := s.examine t exam
    let s := s.setFld pgDev (0x044 + 8 * t) 16 8 n
    if n = 0 then (some t, s) else s.selectImg exam l

/-- The trial fields at the acceptance of slot `t` (R333). -/
def State.trialOf (s : State) (t : Nat) : State :=
  let q := s.reg pgDev (0x048 + 8 * t)
  let s :=
    if s.rfld pgDev 0x040 19 1 = t ∧ s.reg pgDev 0x054 = q then s.setDv 20 2 (min 3 (s.rfld pgDev 0x040 20 2 + 1))
    else ((s.setDv 19 1 t).setReg pgDev 0x054 q).setDv 20 2 1
  s.setDv 27 1 1

/-- The Developer's sequence can be run to its end: the die is out of reset, no update command runs (R359), and what step 2
powers up has its handshakes (R383, R393). -/
def State.devReady (s : State) : Bool :=
  s.bootWaits && !s.saf.upBusy && (!s.bootLoads || s.pw.acked) && (List.range 7).all fun i => !s.bootClk i || bit s.pw.ckack i

/-- Every domain takes its state of step 2 of R329, the die links in use among them (R34). -/
def State.bootUp (s : State) : State :=
  each (below 3 s.linkUsed) (fun j s => s.setDom (266 + j) 0)
    { s with pw := { s.pw with dom := [], pcreq := false, acked := false } }

/-- Steps 5 and 6 for the image of slot `t`. -/
def State.startImg (s : State) (t : Nat) : State :=
  let s := ((s.applyImg (s.slotImg t) [0, 1, 2, 3]).trialOf t).setDv 25 2 t
  (s.logDie 0x09 (w32 t) (s.reg pgDev (0x048 + 8 * t))).startAll

/-- Steps 3 to 6 (R319, R328); BF_RESET_N is driven 0 for 10 µs at the start (R402). -/
def State.bootScan (s : State) (scan : BitVec 4) (exam : BitVec 2) : State :=
  let s := { s with dev := { s.dev with bfT := s.tim.cyc + 10000 } }
  let boot := fld s.saf.straps 2 2
  if 2 ≤ boot then (if boot = 3 then s.logDie 0x04 0 0 else s).recovery 3
  else
    let s := (s.scanSlot 0 scan).scanSlot 1 scan
    match s.selectImg exam s.candidates with
    | (none, s) => s.noImage
    | (some t, s) => s.startImg t

/-- Step 2: lagging copies, keys of a DECOMMISSIONED die, and the repair map at a power-on reset. -/
def State.bootOtp (s : State) (bad : Option Nat) (pon : Bool) : State :=
  let s := s.otpBoot bad
  let s := if s.life = 2 then s.zeroize 4 else s
  if pon then s.loadRepairs else s

/-- The Developer's sequence. DEDUCED; log entry 24. -/
def State.devSeq (s : State) (scan : BitVec 4) (exam : BitVec 2) (bad : Option Nat) : State :=
  if !s.devReady then s
  else
    let pon := s.dev.pon
    let t := { s.bootUp with dev := { s.dev with due := false, pon := false } }
    if strapFault s.saf.straps then (t.logDie 0x03 (s.saf.straps.zeroExtend 32) 0).recovery 1
    else (t.bootOtp bad pon).bootScan scan exam

/-- The reload of woken regions when no region was running: checks 2 to 8 on the image accepted at the last boot, its
load entries for those regions, and the failure case with its reason (R328, R392). -/
def State.reload (s : State) (l : List Nat) (timeout : Bool) : State :=
  let t := s.rfld pgDev 0x040 25 2
  if 2 ≤ t then s.noImage
  else
    match if timeout then 0x0B else s.checkImg (s.slotImg t) s.slotSize false (some (s.recDigest t)) with
    | 0 => each l (fun r s => s.releaseRegion r) (s.applyImg (s.slotImg t) l)
    | n => (s.setFld pgDev (0x044 + 8 * t) 16 8 n).noImage

/-! ### Developer commands (R332) -/

/-- The bits that a command programs: none of them without the supply (R332). -/
def State.otpStart (s : State) (l : List Nat) (bad : Option Nat) : Nat × Prog :=
  if l.isEmpty || s.saf.vpp then (0, Prog.bits l bad) else (5, Prog.empty)

/-- The programming of a Developer command begins. -/
def State.dvStart (s : State) (l : List Nat) (bad : Option Nat) : Nat × State :=
  let (code, x) := s.otpStart l bad
  (code, { s with saf := { s.saf with dv := x } })

/-- The next bit of a Developer command. -/
def State.dvBit (s : State) : State :=
  match s.saf.dv.left with
  | [] => s
  | (b, _) :: _ =>
    let (code, t) := s.otpOne b s.saf.dv.bad
    let t := { t with saf := { t.saf with dv := s.saf.dv.next code } }
    (if code = 0 then t else t.setFld pgDev 0x068 0 8 code).otpRegs

/-- The rest of a programming: its next item as often as there are items. -/
def State.rest (f : State → State) (l : List (Nat × Byte)) (s : State) : State :=
  each l (fun _ s => f s.logPass) s

/-- What a Developer command begins: its result so far, and the bits it programs. -/
def State.dvRun (s : State) (cmd : Nat) (bad : Option Nat) : Nat × State :=
  let arg := (s.reg pgDev 0x064).toNat
  match cmd with
  | 1 =>
    if !s.started then (3, s)
    else
      let s := (s.setDv 27 1 0).setDv 20 2 0
      let v := min s.dev.version 128
      if s.rollV < v then s.dvStart (s.rollBits v) bad else (0, s)
  | 2 =>
    if 3 < arg then (6, s)
    else if (below 4 fun i => decide (i ≠ arg) && s.keyProg i && !s.keyRevoked i).isEmpty then (4, s)
    else s.dvStart ([1536 + arg, 1540 + arg].filter fun i => !s.otpBit i) bad
  | 3 =>
    (match s.life with
     | 0 => s.dvStart (s.lifeBits 0) bad
     | 1 => s.dvStart (s.lifeBits 1) bad
     | _ => (8, s))
  | _ => (2, s)

/-- A write of DVCMD. DESIGN CHOICE; log entry 22. -/
def State.dvcmd (s : State) (cmd : Nat) (bad : Option Nat) : State :=
  if s.saf.dvBusy then s.setFld pgDev 0x068 0 8 1
  else
    let (code, s) := (s.setReg pgDev 0x060 (w32 cmd)).dvRun cmd bad
    let s := s.setFld pgDev 0x068 0 8 code
    { s with saf := { s.saf with dvBusy := true } }

/-- The command ends. -/
def State.dvEnd (s : State) : State := ({ s with saf := { s.saf with dvBusy := false, dv := Prog.empty } }).flag pgDev 0

/-- The rest of a Developer command, and its end. -/
def State.dvDone (s : State) : State :=
  if s.saf.dvBusy then (s.rest State.dvBit s.saf.dv.left).dvEnd else s

/-! ### RECOVERY (R337 to R339) -/

def State.recovering (s : State) : Bool := decide (s.rfld pgDev 0x040 28 4 = 6)

/-- A write of RCDATA: a word of the staging area, and the next offset. The store waits for a segment that is being
cleared. -/
def State.rcdata (s : State) (v : Word) : State :=
  if !s.recovering || s.saf.rcBusy then s
  else
    let o := s.rfld pgRec 0x040 2 21 * 4
    let s := ({ s with saf := { s.saf with rcWait := s.saf.rcWait ++ [(o, v)] } }).rcStores
    (s.setReg pgRec 0x044 v).setFld pgRec 0x040 2 21 ((o + 4) % 0x800000 / 4)

/-- The next bit of KEYPROG. -/
def State.rcBit (s : State) : State :=
  match s.saf.rc.left with
  | [] => s
  | (b, _) :: _ =>
    let (code, t) := s.otpOne b s.saf.rc.bad
    let t := { t with saf := { t.saf with rc := s.saf.rc.next code } }
    (if code = 0 then t else t.setFld pgRec 0x050 0 8 code).otpRegs

/-- What a recovery command does at once: CODE and REJECT, and the bits KEYPROG programs. DEDUCED; log entry 23. -/
def State.rcRun (s : State) (cmd : Nat) (bad : Option Nat) : Nat × Nat × State :=
  let arg := (s.reg pgRec 0x04C).toNat
  match cmd with
  | 1 =>
    let s := s.waitClear [0, 1, 2, 3]
    let m := s.stageImg
    let s := s.countReads 0x800000 (0x200 + (if headerOk m 0x800000 true then leNat (m 0x10 4) else 0))
    let n := s.checkImg m 0x800000 true none
    let n := if n = 0 ∧ s.life = 2 then 0x0A else n
    if n ≠ 0 then (10, n, s)
    else
      let s := s.applyImg m [0, 1, 2, 3]
      let s := s.zero 0x800000 0x800000
      let s := ((s.setDv 25 2 2).setDv 27 1 1).logDie 0x09 2 0
      (0, 0, s.startAll)
  | 2 =>
    if s.life ≠ 0 then (8, 0, s)
    else if 3 < arg ∨ s.keyProg arg then (6, 0, s)
    else
      let s := (s.waitClear [0, 1, 2, 3]).countReads 0x800000 48
      let d := leNat (s.stageImg 0 48)
      let (code, x) := s.otpStart ((below 384 fun i => d.testBit i).map fun i => 384 * arg + i) bad
      (code, 0, { s with saf := { s.saf with rc := x } })
  | _ => (2, 0, s)

/-- A write of RCCMD. -/
def State.rccmd (s : State) (cmd : Nat) (bad : Option Nat) : State :=
  if s.saf.rcBusy then s
  else
    let (code, rej, s) := if s.recovering then (s.setReg pgRec 0x048 (w32 cmd)).rcRun cmd bad else (9, 0, s)
    let s := s.setReg pgRec 0x050 (w32 (rej * 256 + code))
    { s with saf := { s.saf with rcBusy := true } }

/-- A recovery command ends. -/
def State.rcEnd (s : State) : State := ({ s with saf := { s.saf with rcBusy := false, rc := Prog.empty } }).flag pgRec 0

/-- The rest of a recovery command, and its end. -/
def State.rcDone (s : State) : State :=
  if s.saf.rcBusy then (s.rest State.rcBit s.saf.rc.left).rcEnd else s

/-! ### Update path (R335, R359, R360) -/

/-- The target slot of a BEGIN: with no slot accepted, the latent one as the flash stands (R327, R360). -/
def State.upTarget (s : State) : Nat :=
  match s.rfld pgDev 0x040 25 2 with
  | 0 => 1
  | 1 => 0
  | _ =>
    if s.recState 0 ≠ 2 then 0
    else if s.recState 1 ≠ 2 then 1
    else if s.recSeq 1 < s.recSeq 0 then 1 else 0

def State.setUp (s : State) (o : Bool) : State := { s with dev := { s.dev with upOpen := o } }

/-- The record of an image: bytes 0x00 to 0x3B (R327). -/
def recBytes (seq : Word) (digest : List Byte) : List Byte :=
  natLE 0x51455344 4 ++ natLE seq.toNat 4 ++ digest ++ [0, 0, 0, 0]

/-- Bytes from a flash address on, each with its address. -/
def flItems (a : Nat) (l : List Byte) : List (Nat × Byte) := l.zipIdx.map fun (b, i) => (a + i, b)

/-- The programming of an update command begins. -/
def State.upStart (s : State) (l : List (Nat × Byte)) (bad : Option Nat) (fin : Bool) : State :=
  { s with saf := { s.saf with up := { left := l, bad := bad }, upFin := fin } }

/-- The next byte of an update command: one that does not read back gives PROGFAIL, and ends a FINISH before it goes on; the
last byte of a FINISH ends the update (R360). -/
def State.upByte (s : State) : State :=
  match s.saf.up.left with
  | [] => s
  | (a, b) :: l =>
    let (good, t) := s.flOne a b (decide (s.saf.up.bad = some 0))
    let stop := !good && s.saf.upFin
    let t := { t with saf := { t.saf with up := if stop then Prog.empty else s.saf.up.next 0 } }
    if !good then t.setFld pgSafe 0x50C 0 8 7
    else if s.saf.upFin && l.isEmpty then (t.logDie 0x70 (w32 t.dev.upTgt) t.dev.upSeq).setUp false
    else t

/-- What an update command does at once, and the bytes it programs. `timeout`: a flash timeout ended it. DEDUCED; log
entry 23. -/
def State.upRun (s : State) (cmd : Nat) (timeout : Bool) (bad : Option Nat) : Nat × State :=
  let z := s.slotSize
  let base := s.slotBase s.dev.upTgt
  let off := s.rfld pgSafe 0x504 0 30
  match cmd with
  | 1 =>
    let q := s.reg pgSafe 0x508
    if (List.range 2).any fun t => s.candidate t && decide (q.toNat ≤ (s.reg pgDev (0x048 + 8 * t)).toNat) then (6, s)
    else if timeout then (19, s.setUp false)
    else
      let t := s.upTarget
      let s := s.flErase (s.slotBase t + z - 0x10000)
      (0, { s with dev := { s.dev with upOpen := true, upTgt := t, upSeq := q } })
  | 2 =>
    if !s.dev.upOpen then (16, s)
    else if off % 0x10000 ≠ 0 ∨ z ≤ off ∨ off = z - 0x10000 then (17, s)
    else if timeout then (19, s.setUp false)
    else (0, s.flErase (base + off))
  | 3 =>
    if !s.dev.upOpen then (16, s)
    else if off % 256 ≠ 0 ∨ z ≤ off then (17, s)
    else if timeout then (19, s.setUp false)
    else
      let l := s.regBytes pgSafe 0x600 64
      (0, s.upStart (flItems (base + off) (if off = z - 0x100 then l.take 0xC0 else l)) bad false)
  | 4 =>
    if !s.dev.upOpen then (16, s)
    else
      let m := s.slotImg s.dev.upTgt
      let body := leNat (m 0x10 4)
      if leNat (m 0 4) ≠ 0x4D495644 ∨ body % 64 ≠ 0 ∨ z < body + 0x240 then (18, s)
      else if timeout then (19, s.setUp false)
      else
        let r := recBytes s.dev.upSeq (imgDigest m)
        (0, s.upStart (flItems (base + z - 0x40) (r ++ natLE (crc32c r).toNat 4)) bad true)
  | 5 => (0, s.setUp false)
  | _ => (2, s)

/-- A write of UPCMD: discarded while a command runs. -/
def State.upcmd (s : State) (cmd : Nat) (timeout : Bool) (bad : Option Nat) : State :=
  if s.saf.upBusy then s
  else
    let (code, s) := (s.setReg pgSafe 0x500 (w32 cmd)).upRun cmd timeout bad
    let s := s.setFld pgSafe 0x50C 0 8 code
    let s := if code ∈ [2, 6, 16, 17, 18] then s.logDie 0x71 (w32 code) (w32 cmd) else s
    { s with saf := { s.saf with upBusy := true } }

/-- An update command ends. -/
def State.upEnd (s : State) : State := ({ s with saf := { s.saf with upBusy := false, up := Prog.empty } }).flag pgSafe 7

/-- The rest of an update command, and its end. -/
def State.upDone (s : State) : State :=
  if s.saf.upBusy then (s.rest State.upByte s.saf.up.left).upEnd else s

/-- A microsecond of the programming in progress: a bit or a byte of each command. DESIGN CHOICE; log entry 22. -/
def State.progTick (s : State) : State := if s.tim.cyc % 1000 = 0 then s.dvBit.rcBit.upByte else s

/-! ### Restart of the management unit (R343) -/

/-- MGMT_RESTART: what runs ends with ABORT, and what it has programmed so far stays (R336, R343). DESIGN CHOICE; log
entry 55. -/
def State.mgmtRestart (s : State) : State :=
  let s := (s.addSat pgSafe 0x040 0 16 1).flag pgSafe 10
  let s := s.logDie 0x17 (w32 (s.rfld pgSafe 0x040 0 16)) 0
  let s := if s.saf.dvBusy then (s.setFld pgDev 0x068 0 8 15).dvEnd else s
  let s := if s.saf.upBusy then (s.setFld pgSafe 0x50C 0 8 15).upEnd else s
  let s := if s.saf.ksBusy then (s.setFld pgSafe 0x34C 0 8 15).ksDone else s
  let s := if s.saf.rcBusy then (s.setFld pgRec 0x050 0 8 15).rcEnd else s
  let s := { s with saf := { s.saf with mg := UnitSt.reset 0, mgRam := [] } }
  (s.setUp false).sessionKill 8

end Sys2Proof.Machine
end

