-- ==== Sys2Proof/Machine/Power.lean ====
section
/-! DEFINITION. Power transitions, waking, the handshakes with the SoC, and reset requests (R383 to R397). -/

namespace Sys2Proof.Machine

def pgPower : Nat := 0x006
def pgClocks : Nat := 0x007

/-! ### Clock requests (R383) -/

/-- The request pair of a domain's clock: FAB, CORE, FP, HOST, BF, TB, DL from 0. -/
def clkOf (d : Nat) : Nat :=
  if d ≤ 244 then 0 else if d = 245 then 3 else if d < 262 then 2 else if d = 262 then 1 else if d = 263 then 5
  else if d = 264 then 4 else if d = 265 then 7 else 6

/-- CKREQ `i`: a domain that uses the clock is awake, or is asked to leave NAP, SLEEP or OFF, by step 2 of R329 too. -/
def State.ckReq (s : State) (i : Nat) : Bool :=
  (List.range 269).any (fun d => decide (clkOf d = i) && s.awake d)
    || s.pw.steps.any (fun t => decide (clkOf t.dom = i) && decide (t.tgt ≤ 1))
    || (s.bootWaits && (s.pw.pcreq || s.pw.acked) && s.bootClk i)

/-- CKHS as it reads (R384). -/
def State.ckhs (s : State) : Word :=
  w32 (s.pw.ckack.toNat * 2 ^ 16 + ((List.range 7).map fun i => b2n (s.ckReq i) * 2 ^ i).sum)

/-- PCSLPACK: block SLEEP stands, every switched domain but 265 being in SLEEP or OFF (R386, R394). -/
def State.pcSlpAck (s : State) : Bool := (List.range 269).all fun d => decide (d = 265) || decide (3 ≤ s.dom d)

/-- PCLVL: 15 for a group of a wake; for others the spec gives no number; none while PCREQ is 0 (R393, R432). DESIGN CHOICE;
log entry 70. -/
def State.pclvl (s : State) : Option (BitVec 4) :=
  if !s.pw.pcreq then none
  else if !s.pw.asked.isEmpty then some 15
  else some (Config.groupLevel ((s.pw.steps.filter fun t => s.powersUp t && decide (some (pwGroup t.dom) = s.pwNeed)).map
    PwStep.dom))

/-! ### Steps of a transition (R389, R390) -/

/-- The children of a domain in descending number. -/
def children (d : Nat) : List Nat := (below 269 fun x => decide (d ∈ parents x)).reverse

/-- NAP exists only for units, Reels, cluster-common and region-common domains; another parent is brought to RUN. -/
def stateFor (d t : Nat) : Nat := if t = 2 ∧ 244 ≤ d then 0 else t

/-- The parents that TARGET outranks, ancestors first, behind the steps of `l`. -/
def raiseSteps (s : State) : Nat → Nat → Nat → List PwStep → List PwStep
  | 0, _, _, l => l
  | n + 1, d, t, l =>
    (parents d).foldl (fun l q =>
      if rankOf (s.dom q) < rankOf t ∧ ¬ (l.any fun x => decide (x.dom = q)) = true then
        raiseSteps s n q t l ++ [⟨q, stateFor q t⟩]
      else l) l

/-- The children that outrank TARGET, each after its own children, in descending number. -/
def lowerSteps (s : State) : Nat → Nat → Nat → List PwStep → List PwStep
  | 0, _, _, l => l
  | n + 1, d, t, l =>
    (children d).foldl (fun l x =>
      if rankOf t < rankOf (s.dom x) then lowerSteps s n x t l ++ [⟨x, t⟩] else l) l

/-- A die-link port that is not used stays powered down (R34). -/
def State.portOff (s : State) (d : Nat) : Bool := decide (266 ≤ d) && !s.linkUsed (d - 266)

/-- The steps that move domain `d` to state `t`: none for an unused die-link port. DEDUCED; log entry 27. -/
def State.stepsTo (s : State) (d t : Nat) : List PwStep :=
  if s.portOff d then [] else
  raiseSteps s 5 d t [] ++ lowerSteps s 5 d t [] ++ (if s.dom d = t then [] else [⟨d, t⟩])

/-- The domain is an idle spare, or a part that a spare has replaced. -/
def State.idleSpare (s : State) (d : Nat) : Bool :=
  if d < 144 then decide (d % 9 = 8) && (s.c (d / 9)).urepl.isNone
  else if d < 224 then decide ((d - 144) % 5 = 4) && (s.c ((d - 144) / 5)).rrepl.isNone
  else false

def State.replaced (s : State) (d : Nat) : Bool :=
  if d < 144 then decide ((s.c (d / 9)).urepl = some (d % 9))
  else if d < 224 then decide ((s.c ((d - 144) / 5)).rrepl = some ((d - 144) % 5))
  else false

/-- A GO is accepted (R389). DEDUCED; log entry 27. -/
def State.goOk (s : State) (d t : Nat) : Bool :=
  !s.pw.busy && decide (d ≤ 268) && decide (t ≤ 4) && decide (d ≠ 265) && !(decide (t = 2) && decide (244 ≤ d))
    && !(s.idleSpare d && decide (t ≤ 1)) && !s.replaced d

/-- A unit stops for retention at an instruction boundary with its store buffer drained (R390). -/
def State.clean (s : State) (d : Nat) : Bool :=
  if d < 144 then
    (s.u d).stbuf.isEmpty && (s.u d).micro.isNone &&
      (match (s.u d).stat with
       | .run | .wfe | .waitt _ | .held => true
       | _ => (s.u d).locked)
  else true

/-- The last step of a wake with no other region in RUN, after which the Developer reads the flash: it waits for an update
command (R359, R392). -/
def State.reloadWaits (s : State) : Bool :=
  s.saf.upBusy && !s.pw.wake.isEmpty && decide (s.pw.steps.length = 1)

/-- The step can be made: its handshakes are acknowledged and its domain is at a clean point. -/
def State.stepReady (s : State) (t : PwStep) : Bool :=
  let ck := decide (clkOf t.dom = 7) || bit s.pw.ckack (clkOf t.dom)
  if s.powersUp t then s.pw.acked && ck
  else if s.dom t.dom = 2 ∧ t.tgt ≤ 1 then ck
  else if s.awake t.dom ∧ t.tgt = 2 then s.clean t.dom
  else true

/-- A domain leaves retention: a part that holds its reset state starts, any other goes on where it stopped. -/
def State.napOut (s : State) (d tgt : Nat) : State :=
  let s := s.setDom d tgt
  if d < 144 then (if (s.u d).stat = .held then s.releaseUnit d else s.wake d)
  else if d < 224 then (if (s.r (d - 144)).held then s.releaseReel (d - 144) else s)
  else s

/-- One step of R390. -/
def State.stepDo (s : State) (t : PwStep) : State :=
  let cur := s.dom t.dom
  if rankOf cur ≤ 1 then
    if t.tgt ≤ 2 then s.powerOn t.dom t.tgt
    else
      let s := s.setDom t.dom t.tgt
      if t.dom = 263 ∧ t.tgt = 4 then { s with tim := { s.tim with saved := none } } else s
  else if 3 ≤ t.tgt then s.powerOff t.dom t.tgt
  else if cur = 2 ∧ t.tgt ≤ 1 then s.napOut t.dom t.tgt
  else if t.tgt = 2 ∧ 144 ≤ t.dom ∧ t.dom < 224 then (s.reelNap (t.dom - 144)).setDom t.dom t.tgt
  else if t.tgt = 2 ∧ 224 ≤ t.dom ∧ t.dom < 240 then (s.saveSpare (t.dom - 224)).setDom t.dom t.tgt
  else s.setDom t.dom t.tgt

/-! ### Resets by request (R396, R397) -/

/-- Cluster and region of a domain, where it belongs to one. -/
def domCluster (d : Nat) : Option Nat :=
  if d < 144 then some (d / 9) else if d < 224 then some ((d - 144) / 5) else if d < 240 then some (d - 224) else none
def domRegion (d : Nat) : Option Nat :=
  if 240 ≤ d ∧ d < 244 then some (d - 240) else (domCluster d).map fun c => c / 4

/-- The physical unit that INDEX names. -/
def State.resetTarget (s : State) (g : Nat) : Nat :=
  match (s.c (g / 9)).urepl with
  | some u => if g % 9 = u then 9 * (g / 9) + 8 else g
  | none => g

/-- A domain lies in the scope of a reset. -/
def State.inScope (s : State) (kind i d : Nat) : Bool :=
  match kind with
  | 2 => decide (domRegion d = some i)
  | 3 => decide (domCluster d = some i)
  | 4 => decide (d = s.resetTarget i)
  | _ => decide (d = 144 + s.physR i)

/-- A region, cluster, unit or Reel reset of a scope that is in no transition. -/
def State.doReset (s : State) (kind i : Nat) : State :=
  let act := fun (d : Nat) (sc : Scope) (f : State → State) =>
    if s.awake d then (f s).hold sc else if s.dom d = 2 then f s else s
  match kind with
  | 2 => act (240 + i) (.region (BitVec.ofNat 2 i).toFin) fun s => s.resetRegion i
  | 3 => act (224 + i) (.cluster (BitVec.ofNat 4 i).toFin) fun s => s.resetCluster i
  | 4 =>
    let p := s.resetTarget i
    if h : p < 144 then act p (.unit ⟨p, h⟩) fun s => s.resetUnit p else s
  | _ =>
    let r := s.physR i
    if h : r < 80 then act (144 + r) (.reel ⟨r, h⟩) fun s => s.clearReel r true else s

/-- A reset waits for the transition that its scope is in. -/
def State.request (s : State) (kind i : Nat) : State :=
  if s.pw.steps.any fun t => s.inScope kind i t.dom then
    { s with pw := { s.pw with rst := s.pw.rst ++ [(kind, i)] } }
  else s.doReset kind i

/-- A write of RSTCTL has the right key, kind and index. -/
def rstOk (v : Word) : Bool :=
  let i := fld v 0 9
  decide (fld v 16 16 = 0xC1EA) &&
    (match fld v 12 3 with
     | 1 => decide (i = 0)
     | 2 => decide (i < 4)
     | 3 => decide (i < 16)
     | 4 => decide (i < 144)
     | 5 => decide (i < 80)
     | _ => false)

/-- A write of RSTCTL (R397). -/
def State.rstctl (s : State) (v : Word) : State :=
  if rstOk v then
    let s := genWrite .power pgPower 0x060 v s
    if fld v 12 3 = 1 then s.warm 2 else s.request (fld v 12 3) (fld v 0 9)
  else s.setBit pgPower 0x044 30 true

/-! ### Waking (R392) -/

/-- No ancestor of the domain, and not the domain itself, is OFF: the wake controller never raises a domain from OFF. -/
def wakeable (s : State) : Nat → Nat → Bool
  | 0, d => decide (s.dom d ≠ 4)
  | n + 1, d => decide (s.dom d ≠ 4) && (parents d).all fun q => wakeable s n q

/-- The domains a wake of regions `l` raises, in order, with the spares going to NAP. -/
def wakeDoms (s : State) (l : List Nat) : List PwStep :=
  let first := [244, 263] ++ l.map fun r => 240 + r
  let cl := l.flatMap fun r => (List.range 4).map fun i => 4 * r + i
  let rest := cl.map (fun c => 224 + c) ++ cl.flatMap (fun c => (List.range 9).map fun u => 9 * c + u)
    ++ cl.flatMap fun c => (List.range 5).map fun e => 144 + 5 * c + e
  ((first ++ rest).map fun d => (⟨d, if s.idleSpare d then 2 else 0⟩ : PwStep)).filter fun t =>
    wakeable s 4 t.dom && decide (rankOf (s.dom t.dom) < rankOf t.tgt)

/-- A wake that this slow-clock tick began and that has made no step yet: sources of one tick give the union of their
regions (R357). -/
def State.sameWake (s : State) : Bool := s.pw.busy && decide (s.pw.wakeT = slowOf s.tim.cyc + 1)

/-- Regions in which the steps `l` raise a domain from SLEEP: the outcome of R392 is theirs. -/
def State.coldOf (s : State) (l : List PwStep) (rs : List Nat) : List Nat :=
  rs.filter fun r => l.any fun t => decide (domRegion t.dom = some r ∧ s.dom t.dom = 3)

/-- A wake of regions: a region already in RUN is left unchanged, and a wake that meets a transition waits for its end;
with no region left to wake nothing is raised. DESIGN CHOICE; log entry 28. -/
def State.startWake (s : State) (l : List Nat) : State :=
  if s.pw.busy && !s.sameWake then
    { s with pw := { s.pw with wait := s.pw.wait ++ l.filter fun r => decide (¬ r ∈ s.pw.wait) } }
  else
    let old := if s.sameWake then s.pw.asked else []
    let l := (old ++ l.filter fun r => decide (¬ r ∈ old)).filter fun r => !s.awake (240 + r)
    let steps := wakeDoms s l
    if l.isEmpty || steps.isEmpty then s
    else
      ({ s with pw := { s.pw with steps := if s.sameWake then [] else s.pw.steps, wake := s.coldOf steps l, asked := l,
                                  wakeT := slowOf s.tim.cyc + 1 } }).addSteps steps

/-- The outcome at the end of a wake. -/
def State.wakeEnd (s : State) (timeout : Bool) : State :=
  let l := s.pw.wake
  let s := { s with pw := { s.pw with wake := [] } }
  if l.isEmpty then s
  else if (List.range 4).any fun r => decide (¬ r ∈ l) && s.awake (240 + r) then
    each l (fun r s => s.setBit pgPower 0x04C r true) s
  else s.reload l timeout

/-- A wake pad is active in as many samples as its debounce asks for, the last one now (R356). -/
def State.padActive (s : State) (i : Nat) : Bool :=
  decide (s.rfld 0x001 (0x400 + 4 * i) 24 4 < Tab.get 0 s.saf.wk i)

/-- Regions of the enabled level sources that are active (R356, R357). -/
def State.levelRegions (s : State) : List Nat :=
  below 4 fun r => (List.range 16).any fun i =>
    let cfg := s.reg 0x001 (0x400 + 4 * i)
    bit cfg 31 && !bit cfg 29 && cfg.getLsbD r && s.padActive i

/-- The end of a transition: DONE, the outcome of a wake, the resets and the wakes that waited, and the wakes that level
sources still ask for (R357). -/
def State.pwEnd (s : State) (timeout : Bool) : State :=
  let s := if s.pw.go then s.flag pgPower 0 else s
  let s := { s with pw := { s.pw with go := false, busy := false, pcreq := false, acked := false, asked := [], wakeT := 0 } }
  let s := s.wakeEnd timeout
  let rst := s.pw.rst
  let s := { s with pw := { s.pw with rst := [] } }
  let s := each rst (fun (k, i) s => s.request k i) s
  let wait := s.pw.wait
  let s := if s.pw.busy then s else ({ s with pw := { s.pw with wait := [] } }).startWake (wait ++ s.levelRegions)
  s

/-- The completion of the next step of the transition in progress (R390). -/
def State.pwStep (s : State) (timeout : Bool) : State :=
  match s.pw.steps with
  | [] => s
  | t :: _ =>
    if s.stepReady t && !s.reloadWaits then
      let g := s.pwNeed
      let s := s.stepDo t
      let s := { s with pw := { s.pw with steps := s.pw.steps.drop 1, wakeT := 0 } }
      if s.pw.steps.isEmpty then s.pwEnd timeout else if s.pwNeed = g then s else s.pwDrop
    else s

/-! ### Registers of the power page (R388) -/

/-- A write of PWCTL (R389). -/
def State.pwctl (s : State) (v : Word) : State :=
  let d := s.rfld pgPower 0x040 0 9
  let t := fld v 0 3
  if bit v 31 && !s.goOk d t then s.setBit pgPower 0x044 30 true
  else
    let s := genWrite .power pgPower 0x044 v s
    if bit v 31 then
      let steps := s.stepsTo d t
      if steps.isEmpty then s.flag pgPower 0
      else
        let s := { s with pw := { s.pw with go := true } }
        s.addSteps steps
    else s

/-- A write of PWREL. -/
def State.pwrel (s : State) (v : Word) : State :=
  each (below 4 fun r => bit v r && s.rbit pgPower 0x04C r) (fun r s =>
    (s.setBit pgPower 0x04C r false).releaseRegion r) s

/-- PWSTAT as it reads. -/
def State.pwstat (s : State) : Word :=
  let d := s.rfld pgPower 0x040 0 9
  let st := if d ≤ 268 then s.dom d else 4
  w32 (b2n s.pw.busy * 2 ^ 31 + b2n (decide (2 ≤ st)) * 2 ^ 30 + st)

def powerWrite (off : Nat) (v : Word) (s : State) : State :=
  match off with
  | 0x044 => s.pwctl v
  | 0x050 => s.pwrel v
  | 0x060 => s.rstctl v
  | _ => genWrite .power pgPower off v s

def powerRead (off : Nat) (peek : Bool) (s : State) : Word × State :=
  if off = 0x048 then (s.pwstat, s) else genRead .power pgPower off peek s

/-- The domains as the steps of the transition in progress leave them. -/
def State.domsAfter (s : State) : State := each s.pw.steps (fun t s => s.setDom t.dom t.tgt) s

/-- A region goes through region reset and power-down (R347): what the reset brings back goes down with the rest. -/
def State.regionDown (s : State) (r : Nat) : State :=
  let s := s.request 2 r
  s.addSteps (s.domsAfter.stepsTo (240 + r) 4)

end Sys2Proof.Machine
end

