-- ==== Sys2Proof/Machine/Safelight.lean ====
section
/-! DEFINITION. The Safelight page, sensors and clock monitors, event log, wake controller, system watchdog and status
outputs (R342 to R357). -/

namespace Sys2Proof.Machine

/-! ### Event log (R348 to R351) -/

/-- The start of a flush of the oldest unflushed record: its four doubleword writes to the host ring (R351, R404). -/
def State.logFlush (s : State) : State :=
  let pi := s.rfld pgSafe 0x24C 0 16
  let size := 2 ^ (s.rfld pgSafe 0x240 0 4 + 4)
  if s.rbit pgSafe 0x240 31 && s.hostUp && s.saf.flight.isNone && decide (s.saf.flushed < s.saf.written)
      && decide ((pi + 2 ^ 16 - s.rfld pgSafe 0x250 0 16) % 2 ^ 16 ≠ size) then
    let n := s.saf.flushed
    let l := Tab.get [] s.saf.log (n % Config.logRecords)
    let a := s.rfld pgSafe 0x248 0 16 * 2 ^ 32 + (s.reg pgSafe 0x244).toNat + 32 * (pi % size)
    let s := { s with saf := { s.saf with flight := some n } }
    each (List.range 4) (fun i s =>
      let d := (slotAt l (2 * i)).toNat + (slotAt l (2 * i + 1)).toNat * 2 ^ 32
      s.hostReq { id := 0xF0, wr := true, addr := a + 8 * i, size := 3, kind := .flush, timedOut := false, dead := false }
        (hrqOf true (a + 8 * i) 3 0xF0 0 false 1 d)) s
  else s

/-- A flush write is answered, or has timed out: an error stops the flush; the last good answer advances PI. -/
def State.flushDone (s : State) (err : Bool) : State :=
  match s.saf.flight with
  | none => s
  | some n =>
    if err then
      let s := { s with saf := { s.saf with flight := none },
                        hreqs := s.hreqs.map fun (q : HReq) => { q with dead := q.dead || decide (q.id = 0xF0) } }
      (s.setBit pgSafe 0x240 31 false).flag pgSafe 9
    else if s.hreqs.any fun q => decide (q.id = 0xF0) && !q.dead then s
    else
      let s := { s with saf := { s.saf with flight := none, flushed := max s.saf.flushed (n + 1) } }
      s.setFld pgSafe 0x24C 0 16 ((s.rfld pgSafe 0x24C 0 16 + 1) % 2 ^ 16)

/-! ### Sensors (R346, R347) -/

/-- A field of 16 bits as a signed number. -/
def sgn16 (n : Nat) : Int := (BitVec.ofNat 16 n).toInt

/-- The region of a temperature sensor. -/
def tempRegion (n : Nat) : Nat := if n < 16 then n / 4 else n - 16

/-- With CRITACT = 1 the region of every sensor in a TCRIT condition goes through region reset and power-down, unless it is
down or on its way (R347). -/
def State.critAct (s : State) : State :=
  if s.rbit pgSafe 0x154 0 then
    each (below 4 fun r => s.saf.crit.any fun n => decide (tempRegion n = r)) (fun r s =>
      if s.domsAfter.dom (240 + r) = 4 then s else s.regionDown r) s
  else s

/-- A sample of temperature sensor `n`. -/
def State.temp (s : State) (n : Nat) (v : Half) : State :=
  let w := sgn16 (s.rfld pgSafe 0x150 0 16)
  let k := sgn16 (s.rfld pgSafe 0x150 16 16)
  let x := v.toInt
  let s := s.setReg pgSafe (0x100 + 4 * n) (w32 (2 ^ 31 + v.toNat))
  let wasW := decide (n ∈ s.saf.warn)
  let wasC := decide (n ∈ s.saf.crit)
  let upd := fun (l : List Nat) (on off : Bool) =>
    if on then (if n ∈ l then l else l ++ [n]) else if off then l.filter fun i => i ≠ n else l
  let s := { s with saf := { s.saf with warn := upd s.saf.warn (decide (w ≤ x)) (decide (x ≤ w - 20)),
                                        crit := upd s.saf.crit (decide (k ≤ x)) (decide (x ≤ k - 20)),
                                        safe := s.saf.safe || decide (k ≤ x) } }
  let s := if w ≤ x then s.flag pgSafe 1 else s
  let s := if w ≤ x ∧ wasW = false then s.logDie 0x40 (w32 n) (w32 v.toNat) else s
  (if k ≤ x ∧ wasC = false then s.logDie 0x41 (w32 n) (w32 v.toNat) else s).critAct

/-- A sample of voltage monitor `n`. DESIGN CHOICE; log entry 29. -/
def State.volt (s : State) (n : Nat) (v : Half) : State :=
  let cfg := s.reg pgSafe (0x180 + 8 * n)
  if bit cfg 31 then
    let x := min v.toNat 0xFFF
    let out := decide (x < fld cfg 0 12) || decide (fld cfg 16 12 < x)
    let fault := s.rbit pgSafe (0x184 + 8 * n) 31
    let run := if out = fault then 0 else Tab.get 0 s.saf.vrun n + 1
    let s := s.setFld pgSafe (0x184 + 8 * n) 0 12 x
    if run < 4 then { s with saf := { s.saf with vrun := Tab.set 0 s.saf.vrun n run } }
    else
      let s := { s with saf := { s.saf with vrun := Tab.set 0 s.saf.vrun n 0 } }
      let s := s.setBit pgSafe (0x184 + 8 * n) 31 (!fault)
      if fault then s
      else
        let s := (s.flag pgSafe 2).logDie 0x42 (w32 n) (w32 x)
        if bit cfg 30 then { s with saf := { s.saf with safe := true } } else s
  else s

/-- Clock domain `d` is meant to run (R382). A die-link port is in use where the straps say so (R34), and the Developer reads
the flash until its sequence has been run. -/
def State.clkRuns (s : State) (d : Nat) : Bool :=
  if d < 2 then true
  else if d = 2 then s.awake 265
  else if d < 7 then s.awake (240 + (d - 3))
  else if d < 11 then (List.range 20).any fun i => decide (s.dom (144 + 20 * (d - 7) + i) = 0)
  else if d < 15 then s.awake (240 + (d - 11))
  else if d = 15 then s.awake 244
  else if d = 16 then s.awake 262
  else if d < 33 then s.awake (246 + (d - 17))
  else if d = 33 then s.awake 245
  else if d = 34 then s.awake 264 && (s.saf.upBusy || (s.bootWaits && decide (fld s.saf.straps 2 2 < 2)))
  else if d = 35 then s.awake 263
  else if d < 39 then s.linkUsed (d - 36) && s.awake (266 + (d - 36))
  else if d = 39 then !s.saf.dv.left.isEmpty || !s.saf.rc.left.isEmpty
  else if d = 40 then s.testMode
  else true

/-- The crystal is lost as slow clock (R342). -/
def State.xtalFail (s : State) : State := (s.setBit pgSafe 0x040 31 false).logDie 0x44 0 0

/-- The management unit's clock bursts to 64 MHz: the firmware runs the Developer, the update path, a log flush or a key store
MAC (R343). -/
def State.mgBurst (s : State) : Bool :=
  s.bootWaits || s.saf.dvBusy || s.saf.rcBusy || s.saf.upBusy || s.saf.flight.isSome
    || (s.saf.ksBusy && decide (s.rfld pgSafe 0x340 0 3 = 4))

/-- The count that a monitor expects of clock domain `d` in 16 µs at its current setting, where the spec gives the frequency
(R382, R384); the others are the integrator's, and the slow clock gives less than one cycle. -/
def State.clkCount (s : State) (d : Nat) : Option Nat :=
  if d = 1 then some 256
  else if d = 2 then some (if s.mgBurst then 1024 else 256)
  else if 3 ≤ d ∧ d < 7 then some (16000 / 2 ^ s.rfld pgClocks 0x040 (4 * (d - 3)) 2)
  else if 7 ≤ d ∧ d < 15 then some 8000
  else if d = 15 then some 16000
  else if d = 16 then some 12800
  else if 17 ≤ d ∧ d < 33 then some 5000
  else if d = 35 then some 2000
  else if d = 39 then some 16
  else if d = 41 then some 32
  else none

/-- A count lies within 6 % of the expected one; where that is not the spec's, `inTol` says so. -/
def State.clkGood (s : State) (d : Nat) (inTol : Bool) (count : Nat) : Bool :=
  match s.clkCount d with
  | some e => decide (94 * e ≤ 100 * count ∧ 100 * count ≤ 106 * e)
  | none => inTol && decide (count ≠ 0)

/-- The end of a monitor count of clock domain `d`. DESIGN CHOICE; log entry 29. -/
def State.clockMon (s : State) (d : Nat) (inTol : Bool) (count : Word) : State :=
  if s.clkRuns d && !s.clkGood d inTol count.toNat then
    let s := if d < 32 then s.setBit pgSafe 0x1C0 d true else s.setBit pgSafe 0x1C4 (d - 32) true
    let s := (s.flag pgSafe 3).logDie 0x43 (w32 d) count
    if d = 0 ∧ s.rbit pgSafe 0x040 31 = true then s.xtalFail else s
  else s

/-- The check of the crystal after the Safelight's power-on reset (R342). -/
def State.xtalCheck (s : State) (good : Bool) : State :=
  if s.saf.xtalDone then s
  else
    let s := { s with saf := { s.saf with xtalDone := true } }
    if good then s.setBit pgSafe 0x040 31 true else s.xtalFail

/-! ### Wake controller (R356, R357) -/

/-- DATA0 and DATA1 of a record in the log joined with further bits. -/
def joinWords (l : List Word) (bits rs : Word) : List Word :=
  let l := l.take 5 ++ [slotAt l 5 ||| bits, slotAt l 6 ||| rs]
  l ++ [crcWords l]

/-- The WAKE record of the sources `bits` and regions `rs`: sources of one tick share a record, which may have been written
already (R357). -/
def State.wakeLog (s : State) (bits rs : Word) : State :=
  let same := fun (e : LogE) => decide (e.code = 0x50 ∧ slowOf e.cyc = slowOf s.tim.cyc)
  let (t, n) := s.saf.wakeRec
  if s.saf.intake.any same then
    let join := fun (e : LogE) => if same e then { e with d0 := e.d0 ||| bits, d1 := e.d1 ||| rs } else e
    { s with saf := { s.saf with intake := s.saf.intake.map join } }
  else if t = slowOf s.tim.cyc + 1 ∧ s.saf.written ≤ n + Config.logRecords then
    let i := n % Config.logRecords
    { s with saf := { s.saf with log := Tab.set [] s.saf.log i (joinWords (Tab.get [] s.saf.log i) bits rs) } }
  else s.logDie 0x50 bits rs

/-- Sources fire: WKSTAT, WAKE, the record, and the wake of their regions. DESIGN CHOICE; log entry 28. -/
def State.wakeFire (s : State) (bits rs : Word) : State :=
  let s := (s.setReg pgSafe 0x448 (s.reg pgSafe 0x448 ||| bits)).flag pgSafe 5
  (s.wakeLog bits rs).startWake (below 4 fun r => bit rs r)

/-- Wake pad `i` fires in this sample: on becoming active with EDGE = 1, while active without (R356). -/
def State.padFires (s : State) (i : Nat) : Bool :=
  let cfg := s.reg pgSafe (0x400 + 4 * i)
  bit cfg 31 && (if bit cfg 29 then decide (Tab.get 0 s.saf.wk i = fld cfg 24 4 + 1) else s.padActive i)

/-- The count of consecutive active samples of a pad, whose active level POL gives; 17 stands for every higher count. -/
def State.padSample (s : State) (i : Nat) (high : Bool) : Nat :=
  if high != s.rbit pgSafe (0x400 + 4 * i) 30 then min 17 (Tab.get 0 s.saf.wk i + 1) else 0

/-- A sample of the wake pads (R356, R357). -/
def State.wakePads (s : State) (pads : BitVec 16) : State :=
  let wk := each (List.range 16) (fun i t => Tab.set 0 t i (s.padSample i (pads.getLsbD i))) s.saf.wk
  let s := { s with saf := { s.saf with wk := wk } }
  match below 16 s.padFires with
  | [] => s
  | l =>
    s.wakeFire (l.foldl (fun w i => w ||| w32 (2 ^ i)) 0) (l.foldl (fun w i => w ||| w32 (s.rfld pgSafe (0x400 + 4 * i) 0 4)) 0)

def State.wakeAlarm (s : State) : State :=
  if s.rbit pgSafe 0x444 31 && decide (s.rfld pgSafe 0x444 0 24 = 0) then
    (s.setBit pgSafe 0x444 31 false).wakeFire 0x20000 (w32 (s.rfld pgSafe 0x444 24 4))
  else s

/-! ### System watchdog (R355) -/

def State.swdPeriod (s : State) : Nat := max 1 (s.rfld pgSafe 0x280 0 24)

def State.swdLoad (s : State) : State := { s with saf := { s.saf with swd := s.swdPeriod, swdWarned := false } }

/-- The watchdog counts: EN, the image runs, and no DBGPAUSE hold. -/
def State.swdRuns (s : State) : Bool :=
  s.rbit pgSafe 0x280 31 && s.started
    && !(s.rbit pgSafe 0x280 29 && decide (s.life = 0)
          && (List.range 144).any fun p => s.unitUp p && decide ((s.u p).mode = 3))

/-- The count has reached 0, and the warm reset it demands (R355). -/
def State.swdDue (s : State) : Bool := s.rbit pgSafe 0x280 31 && s.started && decide (s.saf.swd = 0)
def State.swdBite (s : State) : State := if s.swdDue then s.warm 3 else s

/-- A write of SWDCTL; one that would stop the count comes too late once the count is 0: it is lost in the warm reset
that reaching 0 demands (R355). -/
def State.swdctl (s : State) (v : Word) : State :=
  if s.rbit pgSafe 0x280 30 then s
  else
    let was := s.rbit pgSafe 0x280 31
    let v := if s.life = 0 then v else insBit v 29 false
    if !bit v 31 && s.swdDue then s.swdBite
    else
      let s := s.setReg pgSafe 0x280 (v &&& 0xE0FFFFFF)
      if bit v 31 && !was then s.swdLoad else s

/-- A write of SWDKICK: one kick sequence for the die. One that ends after the count has reached 0 comes too late. -/
def State.swdkick (s : State) (v : Word) : State :=
  let bad := fun (s : State) => ({ s with saf := { s.saf with kick := false } }).addSat pgSafe 0x290 0 16 1
  if v = 0xA5A5 then { s with saf := { s.saf with kick := true } }
  else if v = 0x5A5A then
    if !s.saf.kick then bad s
    else
      let s := { s with saf := { s.saf with kick := false } }
      if s.swdDue then s.swdBite else s.swdLoad
  else bad s

def State.swdWarn (s : State) : State :=
  let w := s.rfld pgSafe 0x284 0 24
  if s.rbit pgSafe 0x280 31 && s.started && !s.saf.swdWarned && decide (w ≠ 0) && decide (s.saf.swd = w) then
    ({ s with saf := { s.saf with swdWarned := true } }).flag pgSafe 4
  else s

/-! ### Status outputs (R147, R345) -/

/-- BF_WP_N: 1 while an update command runs (R402). -/
def State.bfWpN (s : State) : Bool := s.saf.upBusy && s.awake 264

/-- SL_PGOOD: the regulator output is in range (R341). -/
def State.slPgood (s : State) : Bool := s.saf.pgood

/-- The last sample of a temperature sensor is at or above TCRIT (R345). -/
def State.tooHot (s : State) (n : Nat) : Bool :=
  s.rbit pgSafe (0x100 + 4 * n) 31 && decide (sgn16 (s.rfld pgSafe 0x150 16 16) ≤ sgn16 (s.rfld pgSafe (0x100 + 4 * n) 0 16))

/-- SL_ALIVE, FAULT, LOCK, SAFE, THERM, SUPPLY, CLKFAULT and RUNNING from bit 0. -/
def State.status (s : State) : BitVec 8 :=
  let clk := decide (s.reg pgSafe 0x1C0 ≠ 0) || decide (s.reg pgSafe 0x1C4 ≠ 0)
  let volt := fun (n : Nat) => s.rbit pgSafe (0x184 + 8 * n) 31
  let sup := (List.range 8).any fun n => volt n && s.rbit pgSafe (0x180 + 8 * n) 31
  let therm := (List.range 20).any s.tooHot
  let second := (List.range 16).any fun c => s.rbit (pgNeg c) 0x044 29 || s.rbit (pgNeg c) 0x044 28
  let lock := (List.range 144).any fun p => (s.u p).locked
  let l := [s.saf.alive, clk || (List.range 8).any volt || !s.saf.crit.isEmpty || second, lock, s.saf.safe, therm, sup, clk, s.started]
  BitVec.ofNat 8 (bitsLE l)

/-! ### The Safelight page -/

def State.slctl (s : State) (v : Word) : State :=
  { s with saf := { s.saf with safe := bit v 31 || (s.saf.safe && !bit v 30) } }

/-- A tamper input (R352, R402). -/
def State.tamper (s : State) (mask : BitVec 4) : State :=
  if mask = 0 then s else ((s.flag pgSafe 8).logDie 0x60 (mask.zeroExtend 32) 0).zeroize 2

/-- A write to the Safelight page; `timeout` and `bad` belong to an update command. -/
def safeWrite (off : Nat) (v : Word) (timeout : Bool) (bad : Option Nat) (s : State) : State :=
  if 0x300 ≤ off ∧ off < 0x330 then s.setReg pgSafe off v
  else
    match off with
    | 0x044 => s.slctl v
    | 0x154 => (genWrite .safe pgSafe off v s).critAct
    | 0x280 => s.swdctl v
    | 0x284 => if s.rbit pgSafe 0x280 30 then s else genWrite .safe pgSafe off v s
    | 0x28C => s.swdkick v
    | 0x340 => s.kscmd v
    | 0x440 => if fld v 0 4 = 0 then s else s.wakeFire 0x10000 (w32 (fld v 0 4))
    | 0x500 => s.upcmd (fld v 0 3) timeout bad
    | _ => genWrite .safe pgSafe off v s

/-- A read of the Safelight page. -/
def safeRead (off : Nat) (peek : Bool) (s : State) : Word × State :=
  let (v, t) := genRead .safe pgSafe off peek s
  if 0x260 ≤ off ∧ off < 0x280 then
    (slotAt (Tab.get [] s.saf.log (s.rfld pgSafe 0x25C 0 9)) ((off - 0x260) / 4), s)
  else if 0x300 ≤ off ∧ off < 0x330 then (0, s)
  else
    match off with
    | 0x040 => (insBit (insBit v 30 s.slPgood) 29 s.saf.safe, t)
    | 0x254 => (v ||| w32 (s.saf.written % Config.logRecords), t)
    | 0x258 => (match s.saf.intake with
      | e :: _ => e.seq
      | [] => s.saf.seq, s)
    | 0x280 => (if s.life = 0 then v else insBit v 29 false, t)
    | 0x288 => (w32 s.saf.swd, s)
    | 0x340 => (insBit v 31 s.saf.ksBusy, s)
    | 0x380 => (s.ksValid, s)
    | 0x500 => (insBit (insBit (insBit v 31 s.saf.upBusy) 30 s.dev.upOpen) 29 (decide (s.dev.upTgt = 1)), s)
    | _ => (v, t)

/-- Writes and reads of the Developer and recovery pages (R331, R338). -/
def devWrite (off : Nat) (v : Word) (bad : Option Nat) (s : State) : State :=
  if off = 0x060 then s.dvcmd (fld v 0 8) bad else genWrite .dev pgDev off v s

def devRead (off : Nat) (peek : Bool) (s : State) : Word × State :=
  let (v, t) := genRead .dev pgDev off peek s
  (if off = 0x060 then insBit v 31 s.saf.dvBusy else v, t)

def recWrite (off : Nat) (v : Word) (bad : Option Nat) (s : State) : State :=
  match off with
  | 0x044 => s.rcdata v
  | 0x048 => s.rccmd (fld v 0 8) bad
  | _ => if s.recovering then genWrite .recov pgRec off v s else s

def recRead (off : Nat) (peek : Bool) (s : State) : Word × State :=
  let (v, t) := genRead .recov pgRec off peek s
  (if off = 0x048 then insBit v 31 s.saf.rcBusy else v, t)

end Sys2Proof.Machine
end

