-- ==== Sys2Proof/Machine/Loupe.lean ====
section
/-! DEFINITION. The Loupe: pulses (R362, R363), session (R367 to R371), debug requests (R372) and mailboxes (R375), and
the Loupe and unit page functions (R353, R354, R366, R374). -/

namespace Sys2Proof.Machine

def pgLoupe : Nat := 0x003

/-- Fabric cycles in a second. -/
def second : Nat := 1000000000

/-! ### Pulses (R362) -/

/-- Bits of a frame, which its first field decides (R364). -/
def frameLen (l : List Bool) : Nat := if 8 ≤ l.length ∧ bitsLE (l.take 8) = 2 then 58 else 26

/-- A frame is in progress: begun and not whole. -/
def State.inFrame (s : State) : Bool :=
  match s.lou.frame with
  | some l => decide (l.length < frameLen l)
  | none => false

/-- The frame in progress abandoned, with FRAMEERR. -/
def State.frameErr (s : State) : State :=
  ({ s with lou := { s.lou with frame := none } }).addSat pgLoupe 0x114 16 8 1

/-- A bit of the frame in progress; `early`: its falling edge came too soon after that of the bit before. -/
def State.frameBit (s : State) (b early : Bool) : State :=
  if !s.inFrame then s
  else if early then s.frameErr
  else { s with lou := { s.lou with frame := s.lou.frame.map fun l => l ++ [b] } }

/-- A low pulse of `n` counts ends. -/
def State.pulse (s : State) (n : Nat) (early : Bool) : State :=
  if s.saf.por then s
  else if n ≤ 1 then s
  else if n ≤ 6 then s.frameBit false early
  else if n ≤ 15 then s.frameBit true early
  else if n ≤ 79 then s.frameErr
  else if n ≤ 239 then { s with lou := { s.lou with frame := some [] } }
  else if n ≤ 319 then ({ s with lou := { s.lou with frame := none } }).addSat pgLoupe 0x114 0 8 1
  else
    let s := if s.lou.low then s else s.warm 1
    { s with lou := { s.lou with low := false, frame := none } }

/-- No falling edge within 100 µs. -/
def State.frameTimeout (s : State) : State :=
  if s.inFrame then s.frameErr else { s with lou := { s.lou with frame := none } }

/-- A low pulse reaches 320 counts (R363). -/
def State.loupeReset (s : State) : State :=
  if s.saf.por || s.lou.low then s
  else
    let s := s.warm 1
    { s with lou := { s.lou with low := true, frame := none } }

/-! ### Session (R367 to R371) -/

/-- STATE changed, with SESSION set and the timers restarted. -/
def State.setLp (s : State) (st : Nat) : State :=
  let s := (s.setFld pgLoupe 0x040 28 4 st).flag pgLoupe 1
  { s with lou := { s.lou with lastT := s.tim.cyc } }

/-- REASON written and a LOUPE_SESSION record. -/
def State.lpReason (s : State) (event reason : Nat) : State := (s.setFld pgLoupe 0x040 24 4 reason).logSession event reason

/-- KNOCK (R367). -/
def State.knock (s : State) : State :=
  if s.lpState ≠ 0 then s.lpReason 2 5
  else
    match s.life with
    | 0 => s.setLp 3
    | 1 =>
      if s.lou.failT ≠ 0 ∧ s.tim.cyc + 1 < s.lou.failT + second then s.lpReason 2 4
      else
        let s := { s with lou := { s.lou with nonce := Config.entropy s.draws }, draws := s.draws + 1 }
        s.setLp 1
    | _ => s.lpReason 2 1

/-- RESPOND (R368). -/
def State.respond (s : State) : State := if s.lpState = 1 then s.setLp 2 else s

/-- The end of the check of a response (R368). -/
def State.responseCheck (s : State) : State :=
  if s.lpState ≠ 2 then s
  else
    let msg := natLE s.lou.nonce.toNat 48 ++ natLE s.coordDie.toNat 4
    let s := { s with lou := { s.lou with nonce := 0 } }
    match s.key (s.rfld pgLoupe 0x040 8 4) with
    | some k =>
      if !k.loupe then (s.setLp 0).lpReason 2 2
      else if hmac384 k.bytes msg = s.regBytes pgLoupe 0x0C0 12 then s.setLp 3
      else
        let s := { s with lou := { s.lou with failT := s.tim.cyc + 1 } }
        ((s.setLp 0).lpReason 2 3).addSat pgLoupe 0x040 16 8 1
    | none => (s.setLp 0).lpReason 2 2

/-- The session opens (R369 step 3). -/
def State.lpOpen (s : State) : State :=
  let s := { s with lou := { s.lou with darkBanks := false } }
  (s.setLp 4).logSession 1 (s.rfld pgLoupe 0x040 24 4)

/-- Banks that the Darkslide clears: those marked secret, in clusters that run. -/
def State.secretBanks (s : State) : List (Nat × Nat) :=
  (below 16 fun c => s.cluUp c && decide (s.dom (224 + c) = 0)).flatMap fun c => ((below 8 fun b => s.rbit (pgBanks c) 0x0A0 b).map fun b => (c, b))

/-- The Darkslide (R369): keys erased, secret banks being cleared, and the session open once they are clear. -/
def State.darkslide (s : State) : State :=
  if s.lpState ≠ 3 ∨ s.lou.darkBanks then s
  else
    let s := s.zeroize 1
    let l := s.secretBanks
    let s := each l (fun (c, b) s => s.onC c fun x =>
      { x with clearing := if b ∈ x.clearing then x.clearing else x.clearing ++ [b] }) s
    if l.isEmpty then s.lpOpen else { s with lou := { s.lou with darkBanks := true } }

/-- A bank becomes clear; with the last of its banks the Darkslide ends. -/
def State.clearDone (s : State) (c b : Nat) : State :=
  let s := s.bankClear c b
  if s.lou.darkBanks && decide (s.lpState = 3) && (s.secretBanks.all fun (c, b) => decide (¬ b ∈ (s.c c).clearing)) then
    s.lpOpen
  else s

/-- CLOSE (R370). -/
def State.lpClose (s : State) : State := if s.lpState = 4 then (s.sessionEnd 0).logSession 3 0 else s

/-- Ten seconds in CHALLENGE, or with no frame answered OK (R368, R370). -/
def State.lpTimeout (s : State) (st : Nat) : State :=
  if s.lpState = st ∧ s.lou.lastT + 10 * second ≤ s.tim.cyc then
    let s := s.sessionEnd 6
    s.logSession (if st = 4 then 3 else 2) 6
  else s

/-! ### Requests and boxes (R372, R375) -/

/-- A debug request to a unit, and whether it reached one. -/
def State.dbgReq (s : State) (g : Nat) : Bool × State :=
  let p := s.resetTarget g
  if 143 < g || !s.unitUp p || (decide (uOf p = 8) && (s.c (cOf p)).urepl.isNone) then (false, s)
  else if (s.u p).mode = 3 then (true, s)
  else (true, (s.onU p fun x => x.setD fun d => { d with req := true, byLoupe := true }).wake p)

/-- A write of LPREQ. -/
def State.lpreq (s : State) (v : Word) : State :=
  let s := genWrite .loupe pgLoupe 0x100 v s
  let s :=
    if bit v 30 then
      (match s.dbgReq (fld v 0 8) with
       | (true, s) => s
       | (false, s) => s.setBit pgLoupe 0x100 29 true)
    else s
  if bit v 31 then
    let (any, s) := (below 144 fun g => decide (g % 9 ≠ 8)).foldl (fun (a : Bool × State) g =>
      let (r, s) := a.2.dbgReq g
      (a.1 || r, s)) (false, s)
    if any then s else s.setBit pgLoupe 0x100 29 true
  else s

/-- The unit that LPUSEL selects. -/
def State.lpUnit (s : State) : Nat := s.resetTarget (s.rfld pgLoupe 0x104 0 8)

/-- The write of a box in the cycle `now`, unless it is of an earlier one. -/
def BoxW.at (w : Option BoxW) (now : Nat) : Option BoxW := w.filter fun q => decide (q.cyc = now)

/-- A pop of box `b` in the cycle `now`: the word it returns, what the box then holds, the write of the cycle that counts no
longer, and OVR where the write of the cycle had found the box full and is now kept. The old word is that from before the
cycle (R375). -/
def boxPop (b : Option Word) (w : Option BoxW) (now : Nat) : Word × Option Word × Option Bool :=
  match BoxW.at w now with
  | some ⟨_, some (v, ovr)⟩ => (b.getD 0, some v, some ovr)
  | some ⟨_, none⟩ => (0, b, none)
  | none => (b.getD 0, none, none)

/-- A word for the inbox of physical unit `p`: a full box discards it. -/
def State.inboxPut (s : State) (p : Nat) (v : Word) : State :=
  let d := (s.u p).dbg
  let ovr := s.rbit (pgUnit p) 0x544 29
  let w := (BoxW.at d.inW s.tim.cyc).getD ⟨s.tim.cyc, d.inbox.map fun _ => (v, ovr)⟩
  if d.inbox.isSome then (s.setBit (pgUnit p) 0x544 29 true).onU p fun x => x.setD fun d => { d with inW := some w }
  else (s.onU p fun x => x.setD fun d => { d with inbox := some v, inW := some w }).event p

/-- A word from physical unit `p` for its outbox. -/
def State.outboxPut (s : State) (p : Nat) (v : Word) : State :=
  let d := (s.u p).dbg
  let ovr := s.rbit (pgUnit p) 0x544 29
  let w := (BoxW.at d.outW s.tim.cyc).getD ⟨s.tim.cyc, d.outbox.map fun _ => (v, ovr)⟩
  if d.outbox.isSome then (s.setBit (pgUnit p) 0x544 29 true).onU p fun x => x.setD fun d => { d with outW := some w }
  else ((s.setReg (pgUnit p) 0x54C v).onU p fun x => x.setD fun d => { d with outbox := some v, outW := some w }).flag
    pgLoupe 0

/-- A pop of the inbox by its unit, and of the outbox by the Loupe: a write of the same cycle is kept, and does what it does
where it finds room. -/
def State.inboxPop (s : State) (p : Nat) : Word × State :=
  let (v, b, o) := boxPop (s.u p).dbg.inbox (s.u p).dbg.inW s.tim.cyc
  let s := s.onU p fun x => x.setD fun d => { d with inbox := b, inW := none }
  (v, match o with
    | some ovr => (s.setBit (pgUnit p) 0x544 29 ovr).event p
    | none => s)
def State.outboxPop (s : State) (p : Nat) : Word × State :=
  let (v, b, o) := boxPop (s.u p).dbg.outbox (s.u p).dbg.outW s.tim.cyc
  let s := s.onU p fun x => x.setD fun d => { d with outbox := b, outW := none }
  (v, match o with
    | some ovr => ((s.setBit (pgUnit p) 0x544 29 ovr).setReg (pgUnit p) 0x54C (b.getD 0)).flag pgLoupe 0
    | none => s)

/-- A word for the inbox of the selected unit. -/
def State.lpmbtx (s : State) (v : Word) : State := s.inboxPut s.lpUnit v

/-- LPUSTAT as it reads. -/
def State.lpustat (s : State) : Word :=
  let p := s.lpUnit
  let x := s.u p
  if s.rfld pgLoupe 0x104 0 8 ≤ 143 then
    w32 (b2n (s.unitUp p) * 2 ^ 31 + b2n x.locked * 2 ^ 30 + b2n x.dbgPend * 2 ^ 29 + b2n x.dbg.inbox.isSome * 2 ^ 28
      + b2n x.dbg.outbox.isSome * 2 ^ 27 + x.mode * 2 ^ 24)
  else 0

/-! ### The Loupe page (R366) -/

/-- A write by a Loupe frame, or by another master, whose writes to session registers are discarded. -/
def loupeWrite (m : Master) (off : Nat) (v : Word) (s : State) : State :=
  if m = .loupe then
    match off with
    | 0x040 =>
      let s := s.setFld pgLoupe 0x040 8 4 (fld v 8 4)
      (match fld v 0 4 with
       | 1 => s.knock
       | 2 => s.respond
       | 3 => s.lpClose
       | _ => s)
    | 0x100 => s.lpreq v
    | 0x10C => (s.setReg pgLoupe off v).lpmbtx v
    | _ => genWrite .loupe pgLoupe off v s
  else if off = 0x040 ∨ (0x0C0 ≤ off ∧ off < 0x0F0) ∨ off = 0x100 ∨ off = 0x104 ∨ off = 0x10C then s
  else genWrite .loupe pgLoupe off v s

/-- A read of the Loupe page; LPMBRX pops for the Loupe alone. -/
def loupeRead (m : Master) (off : Nat) (peek : Bool) (s : State) : Word × State :=
  if 0x080 ≤ off ∧ off < 0x0B0 then (s.lou.nonce.extractLsb' (8 * (off - 0x080)) 32, s)
  else
    match off with
    | 0x108 => (s.lpustat, s)
    | 0x110 =>
      if m = .loupe then
        if peek then ((s.u s.lpUnit).dbg.outbox.getD 0, s) else s.outboxPop s.lpUnit
      else (0, s)
    | _ => genRead .loupe pgLoupe off peek s

/-! ### Unit pages -/

/-- Unit watchdog loaded with PERIOD (R353, R354). -/
def State.uwdLoad (s : State) (p : Nat) : State :=
  s.onU p fun x => x.setD fun d => { d with uwd := max 1 (s.rfld (pgUnit p) 0x2C4 0 24), warned := false }

/-- A bite: the unit stops with a takeover trigger, and WDT_BITE is logged with the count (R354). -/
def State.uwdBite (s : State) (p cnt : Nat) : State :=
  let pc := (s.u p).pc
  (s.stopTrigger p 2).logEv 0x15 (s.coord p) (w32 cnt) pc

/-- The unit watchdog's count has reached 0: the bite that this demands (R354). -/
def State.uwdBiteDue (s : State) (p : Nat) : State :=
  if s.unitUp p && s.rbit (pgUnit p) 0x2C0 31 && decide ((s.u p).dbg.uwd = 0) && !(s.u p).locked then s.uwdBite p 0
  else s

/-- A write of UWDCTL, UWDPER or UWDWARN (R353); one that would stop the count comes too late once the count is 0 (R354). -/
def State.uwdWrite (s : State) (p off : Nat) (v : Word) : State :=
  let pg := pgUnit p
  if s.rbit pg 0x2C0 30 then
    let same := if off = 0x2C0 then bit v 31 == s.rbit pg 0x2C0 31 else decide (v &&& 0x00FFFFFF = s.reg pg off)
    let s := if off = 0x2C0 ∧ bit v 29 = true then s.setBit pg 0x2C0 29 false else s
    if same then s else s.setBit pg 0x2C0 29 true
  else
    let was := s.rbit pg 0x2C0 31
    let s := if off = 0x2C0 ∧ bit v 31 = false then s.uwdBiteDue p else s
    let s := genWrite .unit pg off v s
    if off = 0x2C0 then
      let s := if bit v 30 then s.setBit pg 0x2C0 30 true else s
      if bit v 31 && !was then s.uwdLoad p else s
    else s

/-- A write of TLBLKnVA with LOCK = 1: duplicates are invalidated, and the unlocked entries fit their room (R312): those
past it give way (DESIGN CHOICE; log entry 69). -/
def State.tlblk (s : State) (p off : Nat) (v : Word) : State :=
  let s := genWrite .unit (pgUnit p) off v s
  if bit v 0 then
    let s := s.onU p fun x => x.inval fun e => decide (e.vpn.toNat = fld v 12 20)
    let room := s.tlbRoom p
    s.onU p fun x => { x with tlb := Tab.drop (fun i => decide (room ≤ i)) x.tlb, rr := x.rr % max 1 room }
  else s

/-- A register that only the unit itself writes, and only in M mode (R374). -/
def debugReg (off : Nat) : Bool :=
  decide (off = 0x540 ∨ off = 0x54C ∨ (0x560 ≤ off ∧ off < 0x5E0))

/-- A write to the page of physical unit `p`. A new PAGE in UIRQ_SRCi leaves the level that the unit sees of source i as it
was until the next UIRQ_SOURCE_PENDING (DESIGN CHOICE; log entry 58). A kick after the count has reached 0 comes too late
(R354). -/
def unitWrite (m : Master) (p off : Nat) (v : Word) (s : State) : State :=
  let own := match m with
    | .unit q => decide (q.val = p)
    | _ => false
  let s :=
    if debugReg off then
      if own && decide ((s.u p).mode = 3) then
        if off = 0x54C then s.outboxPut p v
        else genWrite .unit (pgUnit p) off v s
      else s
    else if 0x2C0 ≤ off ∧ off < 0x2CC then s.uwdWrite p off v
    else if off = 0x2D0 then
      if own && s.rbit (pgUnit p) 0x2C0 31 then
        (if v = 0xC35A ∧ (s.u p).dbg.uwd ≠ 0 then s.uwdLoad p else s.uwdBite p (s.u p).dbg.uwd)
      else s
    else if off = 0x488 then
      let s := if bit v 30 then s.invPage p (s.reg (pgUnit p) 0x48C) else s
      if bit v 31 then s.invAll p else s
    else if 0x4C0 ≤ off ∧ off < 0x500 ∧ off % 16 = 0 then (s.hwSave p off).tlblk p off v
    else if 0x400 ≤ off ∧ off < 0x500 then genWrite .unit (pgUnit p) off v (s.hwSave p off)
    else genWrite .unit (pgUnit p) off v s
  s.wake p

/-- UIRQ_STAT (R142). -/
def State.uirqStat (s : State) (p : Nat) : Word :=
  match s.srcBest p with
  | some i => w32 (2 ^ 31 + s.rfld (pgUnit p) (0x200 + 4 * i) 24 4 * 256 + i)
  | none => 0

/-- DBGSTAT. -/
def State.dbgStat (s : State) (p : Nat) : Word :=
  let x := s.u p
  (s.reg (pgUnit p) 0x544 &&& 0x20000000) ||| w32 (b2n x.dbg.inbox.isSome * 2 ^ 31 + b2n x.dbg.outbox.isSome * 2 ^ 30
    + b2n (decide (s.lpState = 4)) * 2 ^ 28 + b2n x.dbgPend * 2 ^ 27)

/-- A read of the page of physical unit `p`. -/
def unitRead (m : Master) (p off : Nat) (peek : Bool) (s : State) : Word × State :=
  match off with
  | 0x284 => (s.uirqStat p, s)
  | 0x2CC => (w32 (s.u p).dbg.uwd, s)
  | 0x490 => (s.tlbStat p, s)
  | 0x544 => (s.dbgStat p, s)
  | 0x54C => (s.reg (pgUnit p) off, s)
  | 0x548 =>
    let own := match m with
      | .unit q => decide (q.val = p)
      | _ => false
    if own && decide ((s.u p).mode = 3) then
      if peek then ((s.u p).dbg.inbox.getD 0, s) else s.inboxPop p
    else (0, s)
  | _ => genRead .unit (pgUnit p) off peek s

/-- The unit watchdog count at or below WARN makes the warning pending, once per reload (R354). -/
def State.uwdWarn (s : State) (p : Nat) : State :=
  let w := s.rfld (pgUnit p) 0x2C8 0 24
  let d := (s.u p).dbg
  if s.unitUp p && s.rbit (pgUnit p) 0x2C0 31 && !d.warned && decide (w ≠ 0) && decide (d.uwd ≤ w)
      && !(s.u p).locked && decide ((s.u p).mode ≠ 3) then
    (s.onU p fun x => x.setD fun d => { d with warned := true, wdw := some d.uwd }).wake p
  else s

end Sys2Proof.Machine
end

