-- ==== Sys2Proof/Machine/Pages.lean ====
section
/-! DEFINITION. Access to the register pages: presence (R358, R408), header (R419), soft reset (R421), lock (R422) and
the body of every page type. -/

namespace Sys2Proof.Machine

/-! ### Bodies without a function of their own -/

/-- IDSPARE (R426). -/
def State.idSpare (s : State) : Word :=
  (List.range 16).foldl (fun w c =>
    let p := if s.awake (224 + c) then (s.rbit (pgNeg c) 0x044 31, s.rbit (pgNeg c) 0x044 30)
      else (s.rbit 0 0x050 (16 + c), s.rbit 0 0x050 c)
    insBit (insBit w (16 + c) p.1) c p.2) 0

/-- A read of the identity page (R426). -/
def idRead (off : Nat) (s : State) : Word :=
  match off with
  | 0x040 => 0x5D170201
  | 0x044 => s.saf.straps.zeroExtend 32
  | 0x048 => s.coordDie
  | 0x04C => 0x90501010
  | 0x050 => s.idSpare
  | _ => s.reg 0 off

/-- A write to the banks page: BKSECRET is sticky (R273). -/
def bankPgWrite (c off : Nat) (v : Word) (s : State) : State :=
  if off = 0x0A0 then s.setReg (pgBanks c) off (s.reg (pgBanks c) off ||| (v &&& 0xFF))
  else genWrite .banks (pgBanks c) off v s

/-- A read of the banks page. -/
def bankPgRead (c off : Nat) (peek : Bool) (s : State) : Word × State :=
  let (v, t) := genRead .banks (pgBanks c) off peek s
  if 0x040 ≤ off ∧ off < 0x060 then (insBit v 29 (decide ((off - 0x040) / 4 ∈ (s.c c).clearing)), t) else (v, t)

/-- A write to the DMA page (R274). -/
def dmaPgWrite (c off : Nat) (v : Word) (s : State) : State :=
  if 0x100 ≤ off ∧ off < 0x200 ∧ off % 32 = 0x0C then s.dctl c ((off - 0x100) / 32) v
  else genWrite .dma (pgDma c) off v s

/-- Accesses to the march page (R284). -/
def marchPgWrite (c off : Nat) (v : Word) (s : State) : State :=
  if off = 0x040 then s.mtctl c v else genWrite .march (pgMarch c) off v s

def marchPgRead (c off : Nat) (peek : Bool) (s : State) : Word × State :=
  let (v, t) := genRead .march (pgMarch c) off peek s
  (if off = 0x044 then s.mtstat c else v, t)

/-- A write to a frame port page (R197). -/
def fportWrite (i : Nat) (off : Nat) (v : Word) (s : State) : State :=
  if h : off = 0x040 ∧ i < 16 then s.fpcfg ⟨i, h.2⟩ v else genWrite .fport (pgPort i) off v s

/-! ### Body access -/

/-- A write to a body register of a served page: `i` is the number of the page in its type, `p` the page that holds the
registers. LOCK_ORDER of a Shutter store is returned with its INFO. -/
def bodyWrite (m : Master) (k : PK) (i p off : Nat) (v : Word) (timeout : Bool) (bad : Option Nat) (s : State) : State × Option Word :=
  match k with
  | .ident => (genWrite .ident 0 off v s, none)
  | .safe => (safeWrite off v timeout bad s, none)
  | .dev => (devWrite off v bad s, none)
  | .loupe => (loupeWrite m off v s, none)
  | .time => (timeWrite off v s, none)
  | .sheet => (sheetWrite off v s, none)
  | .power => (powerWrite off v s, none)
  | .clocks => (genWrite .clocks pgClocks off v s, none)
  | .host => (genWrite .host 0x008 off v s, none)
  | .recov => (recWrite off v bad s, none)
  | .fport => (fportWrite i off v s, none)
  | .parser | .classifier | .filters | .gates | .meters | .fixer | .queues | .shapers | .sched | .egts =>
    (stageWrite k (p - 0x020) off v s, none)
  | .region => (regionWrite (BitVec.ofNat 2 i).toFin off v s, none)
  | .common => (commonWrite i off v s, none)
  | .shutter => shutterWrite m i off v s
  | .banks => (bankPgWrite i off v s, none)
  | .dma => (dmaPgWrite i off v s, none)
  | .neg => (negWrite i off v s, none)
  | .march => (marchPgWrite i off v s, none)
  | .xbar => (genWrite .xbar p off v s, none)
  | .unit => (unitWrite m (p - 0x200) off v s, none)
  | .reel => ((reelWrite m (p - 0x300) off v s).replayEnd ((p - 0x300) / 5), none)

/-- A read of a body register of a served page: data, response (3: an uncorrectable queue entry, R186) and state. -/
def bodyRead (m : Master) (k : PK) (i p off : Nat) (peek : Bool) (s : State) : Word × Nat × State :=
  let plain := fun (x : Word × State) => (x.1, 0, x.2)
  if isCounter k off then (w32 (s.count (rkey p off)), 0, s)
  else if isCounter k (off - 4) then (w32 (s.count (rkey p (off - 4)) / 2 ^ 32), 0, s)
  else
    match k with
    | .ident => (idRead off s, 0, s)
    | .safe => plain (safeRead off peek s)
    | .dev => plain (devRead off peek s)
    | .loupe => plain (loupeRead m off peek s)
    | .time => plain (timeRead (Master.ix m) off peek s)
    | .sheet => plain (sheetRead off peek s)
    | .power => plain (powerRead off peek s)
    | .clocks => if off = 0x044 then (s.ckhs, 0, s) else plain (genRead .clocks p off peek s)
    | .host => plain (genRead .host p off peek s)
    | .recov => plain (recRead off peek s)
    | .fport => plain (genRead .fport p off peek s)
    | .parser | .classifier | .filters | .gates | .meters | .fixer | .queues | .shapers | .sched | .egts =>
      plain (stageRead k (p - 0x020) off peek s)
    | .region => plain (regionRead (BitVec.ofNat 2 i).toFin off peek s)
    | .common => plain (commonRead i off peek s)
    | .shutter => (shutterRead m i off s, 0, s)
    | .banks => plain (bankPgRead i off peek s)
    | .dma => plain (genRead .dma p off peek s)
    | .neg => plain (genRead .neg p off peek s)
    | .march => plain (marchPgRead i off peek s)
    | .xbar => plain (genRead .xbar p off peek s)
    | .unit => plain (unitRead m (p - 0x200) off peek s)
    | .reel =>
      let (v, e, t) := reelRead m (p - 0x300) off peek s
      (v, e, if peek then t else t.replayEnd ((p - 0x300) / 5))

/-! ### Soft reset (R421) -/

/-- A register that a soft reset leaves as it is because its own definition says so, or that belongs to the decode table
(R116). DEDUCED; log entry 18. -/
def softKeep (k : PK) (p off : Nat) (s : State) : Bool :=
  match k with
  | .safe => s.rbit pgSafe 0x280 30 && decide (off = 0x280 ∨ off = 0x284)
  | .unit => s.rbit p 0x2C0 30 && decide (0x2C0 ≤ off ∧ off < 0x2CC)
  | .common => decide (0x100 ≤ off ∧ off < 0x180)
  | _ => false

/-- What else a soft reset does to the fields of a page that are kept outside its registers. -/
def softExtra (k : PK) (i p : Nat) (s : State) : State :=
  match k with
  | .safe => each (List.range 12) (fun w s => s.setReg pgSafe (0x300 + 4 * w) 0) s
  | .time => { s with tim := { s.tim with stepPend := false, slewAfter := false, tpOn := [], tpLate := [] } }
  | .fport => s.fpSettle i
  | .egts => each (List.range 16) (fun j s => s.onPort j fun x => { x with lost := false }) s
  | .shutter =>
    each (List.range 8) (fun u s => s.onC i fun x =>
      x.setMy u { x.shmy u with refused := false, relerr := false }) s
  | .unit => (s.setBit p 0x2C0 29 false).wake (p - 0x200)
  | .neg => each (List.range 5) (fun e s => each (List.range 16) (fun k s => s.freeRet (5 * i + e) k) s) s
  | .reel => s.qev (p - 0x300)
  | _ => s

/-- A soft reset of a page. A Reel page first stops every channel and dissolves every join; the shaper credits of a
frame port are brought up to date before its rate changes. -/
def softReset (k : PK) (i p : Nat) (s : State) : State :=
  let s :=
    match k with
    | .reel => (each (List.range 16) (fun c s => s.chcfg (p - 0x300) c 0) s).qjoin (p - 0x300) 0
    | .fport => s.credits (BitVec.ofNat 4 i).toFin
    | _ => s
  softExtra k i p (softFields k p (fun off => softKeep k p off s) s)

/-! ### Header -/

/-- A write to a header register of a served page (R419). -/
def headWrite (k : PK) (i p off : Nat) (v : Word) (s : State) : State :=
  match off with
  | 0x008 =>
    let s := if bit v 1 then softReset k i p s else s
    if bit v 31 then s.setBit p pgCtl 31 true else s
  | 0x010 => s.setReg p pgRaw (s.reg p pgRaw &&& ~~~v)
  | 0x014 => s.setReg p pgEn (v &&& irqMask k)
  | 0x01C => s.setReg p pgRaw (s.reg p pgRaw ||| (v &&& irqMask k))
  | _ => s

/-- A read of a header register of a served page; `inst` is PGSTAT.INST. -/
def headRead (k : PK) (inst p off : Nat) (peek : Bool) (s : State) : Word × State :=
  match off with
  | 0x000 => (w32 ((typeOf k).1 * 2 ^ 16 + Config.blockVersion), s)
  | 0x004 =>
    (w32 (b2n (decide (irqMask k ≠ 0)) * 2 ^ 31 + b2n (hasTable k) * 2 ^ 30 + b2n (hasPeek k) * 2 ^ 29
      + (typeOf k).2), s)
  | 0x008 => (insBit (s.reg p pgCtl &&& 0x80000000) 0 true, s)
  | 0x00C => (w32 (inst * 2 ^ 16), s)
  | 0x010 => (s.reg p pgRaw, s)
  | 0x014 => (s.reg p pgEn, s)
  | 0x018 => (s.reg p pgRaw &&& s.reg p pgEn, s)
  | 0x020 => (s.reg p lockErr, if peek then s else s.setFld p lockErr 0 16 0)
  | _ => (0, s)

/-! ### Accesses -/

/-- The record of page accesses once page `p` has taken one in this fabric cycle (R418). -/
def State.took (s : State) (p : Nat) : PgSt := { s.pgs with taken := Tab.set 0 s.pgs.taken p (s.tim.cyc + 1) }

/-- A page takes an access: a Reel page in the current Reel cycle (R185), any other in the current fabric cycle. -/
def State.pageTaken (s : State) (k : PK) (p : Nat) : State :=
  if k = .reel then s.onQc (p - 0x300) fun q => { q with page := true } else { s with pgs := s.took p }

/-- The page has taken an access in this cycle, or others wait for it before, those of the Loupe aside, which come last: a
Reel page in this Reel cycle (R185), any other in this fabric cycle (R418). -/
def State.pageBusy (s : State) (page : Nat) : Bool :=
  match kindOf page with
  | some (.reel, n) =>
    s.served page && ((s.qcyc (s.physR n)).page || !(s.r (s.physR n)).pq.isEmpty)
  | some _ =>
    s.served page && (decide (Tab.get 0 s.pgs.taken (s.physPage page) = s.tim.cyc + 1)
      || s.pgs.wait.any fun q => decide (s.physPage q.page = s.physPage page ∧ q.m ≠ .loupe))
  | none => false

/-- A write at `off` of the page is one of a WCS word or a decode-table entry, and a powered unit of the cluster runs a
customer instruction, or earlier such writes wait; behind a waiting one CSIDX and CSDATA0 to CSDATA2 wait too, so that it
lands with the index and the words that stood before it (R130). -/
def State.storeBusy (s : State) (page off : Nat) : Bool :=
  match kindOf page with
  | some (.common, c) =>
    s.served page &&
      ((decide (0x100 ≤ off ∧ off < 0x180 ∨ off = 0x190) && (s.csBusy c || !(s.c c).csq.isEmpty))
        || (decide (0x180 ≤ off ∧ off < 0x190) && !(s.c c).csq.isEmpty))
  | _ => false

/-- A write of `v` at `off` of page `page`: the state, and INFO of a LOCK_ORDER that a unit's store raises. A write to a
page that is not served is discarded (R358). -/
def pageWrite (m : Master) (page off : Nat) (v : Word) (timeout : Bool) (bad : Option Nat) (s : State) : State × Option Word :=
  match kindOf page with
  | none => (s, none)
  | some (k, i) =>
    if !s.served page then (s, none)
    else
      let p := s.physPage page
      let s := s.pageTaken k p
      if s.rbit p pgCtl 31 && lockedReg k off then (lockDiscard p off s, none)
      else if off < 0x040 then
        let t := headWrite k i p off v s
        (if k = .reel then t.qev (p - 0x300) else t, none)
      else bodyWrite m k i p off v timeout bad s

/-- A read at `off` of page `page`: data, response code of R408 and state; a peek leaves the page unchanged (R9). -/
def pageRead (m : Master) (page off : Nat) (peek : Bool) (s : State) : Word × Nat × State :=
  match kindOf page with
  | none => (0, 2, s)
  | some (k, i) =>
    if !s.served page then (0, 1, s)
    else
      let p := s.physPage page
      let s := s.pageTaken k p
      if off < 0x040 then
        let (v, t) := headRead k (s.instOf page) p off peek s
        (v, 0, t)
      else bodyRead m k i p off peek s

/-- The master can make the access: the Loupe reaches page 0x003 alone, a unit must be up and not in U mode (R52), and nothing is answered in
the Safelight's power-on reset (R408, R417). DEDUCED; log entry 19. -/
def State.reaches (s : State) (m : Master) (page : Nat) : Bool :=
  !s.saf.por &&
    match m with
    | .loupe => decide (page = 0x003)
    | .unit p => s.unitUp p && !(s.u p).locked && decide ((s.u p).mode ≠ 0)
    | _ => true

/-- The unit address of a register (R60). -/
def pageAddr (page off : Nat) : Word := w32 (0x04000000 + page * 0x1000 + off)

/-- A register read made and answered to the master (R408). A unit's read of an uncorrectable queue entry raises
ECC_UNCORR with subcode DATA at the unit (R186); INFO holds the instruction, which the command does not tell. -/
def State.answerNow (s : State) (m : Master) (page off : Nat) : State :=
  if s.reaches m page then
    let (v, e, t) := pageRead m page off false s
    match e, m with
    | 3, .unit p =>
      ({ t with draws := t.draws + 1 }).raise p 0x10 2 (t.u p).pc (Config.loadIns t.draws) (pageAddr page off)
    | _, .unit _ => { t with rdata := v, rresp := 0 }
    | _, _ => { t with rdata := v, rresp := e }
  else s

/-- An access to a page that finds the page's access of this cycle taken waits its turn (R185, R418). -/
def State.pageWait (s : State) (q : PgReq) : State :=
  match kindOf q.page with
  | some (.reel, n) => s.onR (s.physR n) fun x => { x with pq := x.pq ++ [q] }
  | _ => { s with pgs := { s.pgs with wait := s.pgs.wait ++ [q] } }

/-- A write of the control store waits for the customer instructions of its cluster to end (R130). -/
def State.storeWait (s : State) (q : PgReq) : State :=
  match kindOf q.page with
  | some (.common, c) => s.onC c fun x => { x with csq := x.csq ++ [q] }
  | _ => s

/-- The host register slave cannot take an access: it has one that is not answered, or others wait before (R408), or the
Safelight is in its power-on reset. -/
def State.hostBusy (s : State) : Bool := s.saf.por || !s.hostIn.isEmpty || !s.pgs.host.isEmpty

/-- The access waits outside the slave. -/
def State.hostWaits (s : State) (q : PgReq) : State := { s with pgs := { s.pgs with host := s.pgs.host ++ [q] } }

/-- The access has to wait: for its page, or, of the host, for the slave (R408, R418). -/
def State.pageHeld (s : State) (m : Master) (page : Nat) : Bool :=
  (decide (m = .host) && s.hostBusy) || (s.reaches m page && s.pageBusy page)

/-- A register read by the master. -/
def State.answer (s : State) (m : Master) (page off : Nat) : State :=
  if m = .host ∧ s.hostBusy = true then s.hostWaits ⟨m, page, off, none, false, none⟩
  else if s.pageHeld m page then s.pageWait ⟨m, page, off, none, false, none⟩ else s.answerNow m page off

/-- HR_RESP of a write: OK, NOT_READY of a page that is not served, or DECODE of no page (R358, R408). -/
def State.wrResp (s : State) (page : Nat) : Nat := if (kindOf page).isNone then 2 else if s.served page then 0 else 1

/-- A register write made, with HR_RESP for the host; a LOCK_ORDER that a unit's write finds is raised at the unit (R277). -/
def State.putNow (s : State) (m : Master) (page off : Nat) (v : Word) (timeout : Bool) (bad : Option Nat) : State :=
  if s.reaches m page then
    match pageWrite m page off v timeout bad s, m with
    | (t, some info), .unit p => t.raise p 0x0D 0 (s.u p).pc info 0
    | (t, _), .host => { t with rresp := s.wrResp page }
    | (t, _), _ => t
  else s

/-- A register write by the master. -/
def State.put (s : State) (m : Master) (page off : Nat) (v : Word) (timeout : Bool) (bad : Option Nat) : State :=
  if m = .host ∧ s.hostBusy = true then s.hostWaits ⟨m, page, off, some v, timeout, bad⟩
  else if s.pageHeld m page then s.pageWait ⟨m, page, off, some v, timeout, bad⟩
  else if s.reaches m page && s.storeBusy page off then s.storeWait ⟨m, page, off, some v, timeout, bad⟩
  else s.putNow m page off v timeout bad

/-- An access that waited is made. -/
def State.pageDo (s : State) (q : PgReq) : State :=
  match q.w with
  | some v =>
    if s.reaches q.m q.page && s.storeBusy q.page q.off then s.storeWait q
    else s.putNow q.m q.page q.off v q.timeout q.bad
  | none => s.answerNow q.m q.page q.off

/-- Place of a master in the order in which a page takes accesses: the host, the management unit, units in ascending index,
the Loupe (R418). -/
def masterRank : Master → Nat
  | .host => 0
  | .mgmt => 1
  | .unit p => 2 + p.val
  | .loupe => 146

/-- The access that a page takes first of those that wait. -/
def firstReq (l : List PgReq) : Option PgReq :=
  l.foldl (fun b q => match b with
    | some x => if masterRank q.m < masterRank x.m then some q else b
    | none => some q) none

/-- Writes of the control store of cluster `c` that wait land once no powered unit runs a customer instruction, one for each
idle step (R130). -/
def State.storeNext (s : State) (c : Nat) : State :=
  match (s.c c).csq with
  | [] => s
  | q :: t =>
    if s.csBusy c then s else (s.onC c fun x => { x with csq := t }).putNow q.m q.page q.off (q.w.getD 0) false none

/-- A Reel cycle begins: the Reel takes the first page access that waits for it (R185, R418). -/
def State.pageNext (s : State) (r : Nat) : State :=
  match firstReq (s.r r).pq with
  | some q => (s.onR r fun x => { x with pq := x.pq.erase q }).pageDo q
  | none => s

/-- A fabric cycle begins at page `p`: of the accesses that wait for it the page takes the first one, the Loupe's only where
`lou` holds and the page has taken none (R418). -/
def State.pageServe (s : State) (lou : Bool) (p : Nat) : State :=
  match firstReq (s.pgs.wait.filter fun q => decide (s.physPage q.page = p ∧ (q.m = .loupe ↔ lou = true))) with
  | some q =>
    if Tab.get 0 s.pgs.taken p = s.tim.cyc + 1 then s
    else ({ s with pgs := { s.pgs with wait := s.pgs.wait.erase q } }).pageDo q
  | none => s

/-- Every access that waits for page `p` made, in the cycles before the one in which a Loupe frame reaches it (R418). DESIGN
CHOICE; log entry 21. -/
def State.pageFirst (s : State) (p : Nat) : State :=
  each (s.pgs.wait.filter fun q => decide (s.physPage q.page = p)) (fun _ s =>
    match firstReq (s.pgs.wait.filter fun q => decide (s.physPage q.page = p)) with
    | some q => ({ s with pgs := { s.pgs with wait := s.pgs.wait.erase q } }).pageDo q
    | none => s) s

/-- The host register slave takes the next access once it has answered the one before (R408). -/
def State.hostNext (s : State) : State :=
  match s.pgs.host with
  | [] => s
  | q :: l =>
    if s.saf.por || !s.hostIn.isEmpty then s
    else
      let t : State := { s with pgs := { s.pgs with host := l } }
      if t.reaches .host q.page && t.pageBusy q.page then t.pageWait q else t.pageDo q

/-- A fabric cycle begins at every page for which accesses wait. -/
def State.pageCycle (s : State) (lou : Bool) : State :=
  each (s.pgs.wait.map fun q => s.physPage q.page).eraseDups (fun p s => s.pageServe lou p) s

end Sys2Proof.Machine
end

