-- ==== Sys2Proof/Machine/Debug.lean ====
section
/-! DEFINITION. Loupe events and frames (R362 to R376) and the debug boxes of a unit (R375). -/

namespace Sys2Proof.Machine

/-! ### Wire and session events -/

/-- LOUPE_FRAME_TIMEOUT (R362). -/
def execLoupeFrameTimeout (s : State) : Out := .next (if s.saf.por then s else s.frameTimeout)
/-- LOUPE_RESET (R363). -/
def execLoupeReset (s : State) : Out := .next s.loupeReset
/-- RESPONSE_CHECK (R368). -/
def execResponseCheck (s : State) : Out := .next (if s.saf.por then s else s.responseCheck)
/-- DARKSLIDE (R369). -/
def execDarkslide (s : State) : Out := .next (if s.saf.por then s else s.darkslide)
/-- CHALLENGE_TIMEOUT (R368). -/
def execChallengeTimeout (s : State) : Out := .next (s.lpTimeout 1)
/-- SESSION_TIMEOUT (R370). -/
def execSessionTimeout (s : State) : Out := .next (s.lpTimeout 4)

/-! ### Frames (R364 to R366) -/

/-- The CRC of a RD frame, of a WR frame, and of a response with or without data (R364, R365). -/
def rdCrc (cmd : Byte) (off : BitVec 10) : Byte := BitVec.ofNat 8 (crc8 (bitsOf cmd.toNat 8 ++ bitsOf off.toNat 10))
def wrCrc (off : BitVec 10) (v : Word) : Byte :=
  BitVec.ofNat 8 (crc8 (bitsOf 2 8 ++ bitsOf off.toNat 10 ++ bitsOf v.toNat 32))
def respCrc (st : Nat) (v : Option Word) : Byte :=
  BitVec.ofNat 8 (crc8 (bitsOf st 4 ++ (v.map fun d => bitsOf d.toNat 32).getD []))

/-- An offset that names a register of page 0x003 (R366, R419). -/
def loupeReg (off : Nat) : Bool :=
  decide (off ≤ 0x020) || decide (off = 0x040) || decide (0x080 ≤ off ∧ off < 0x0B0) || decide (0x0C0 ≤ off ∧ off < 0x0F0)
    || decide (0x100 ≤ off ∧ off ≤ 0x114)

/-- A register that a frame reaches before the session is OPEN (R366). -/
def openReg (off : Nat) : Bool :=
  decide (off = 0x040) || decide (0x080 ≤ off ∧ off < 0x0B0) || decide (0x0C0 ≤ off ∧ off < 0x0F0) || decide (off = 0x114)

/-- STATUS of a frame for the register at `off` whose CRC is right (R365, R366). DEDUCED; log entry 46. -/
def State.frameStatus (s : State) (off : Nat) : Nat :=
  if !loupeReg off then 3
  else if s.lpState ≠ 4 ∧ openReg off = false then 2
  else if (off = 0x108 ∨ off = 0x10C ∨ off = 0x110) ∧ 143 < s.rfld pgLoupe 0x104 0 8 then 3
  else if (off = 0x10C ∨ off = 0x110) ∧ s.unitUp s.lpUnit = false then 4
  else 0

/-- The bits of a response in the order of its slots: STATUS, the data of a RD frame, and the CRC, bit 7 first (R365). -/
def respBits (st : Nat) (v : Option Word) : List Bool :=
  bitsOf st 4 ++ (v.map fun d => bitsOf d.toNat 32).getD [] ++ (bitsOf (respCrc st v).toNat 8).reverse

/-- The response of a frame, with data for a RD frame; one answered OK restarts the timer of an open session (R370). -/
def State.respondWith (s : State) (st : Nat) (v : Option Word) : State :=
  { s with lou := { s.lou with
      status := st, rdata := v.getD 0, frame := none, resp := respBits st v,
      lastT := if st = 0 ∧ s.lpState = 4 then s.tim.cyc else s.lou.lastT } }

/-- The Loupe takes frames: the Safelight runs and the wire is not held low. -/
def State.loupeOn (s : State) : Bool := !s.saf.por && !s.lou.low

/-- A frame answered CRC. -/
def State.crcErr (s : State) (v : Option Word) : State := (s.addSat pgLoupe 0x114 8 8 1).respondWith 1 v

/-- A RD frame. -/
def State.rdFrame (s : State) (cmd : Byte) (off : BitVec 10) (crc : Byte) : State :=
  if !s.loupeOn then s
  else if crc ≠ rdCrc cmd off then s.crcErr (some 0)
  else if cmd ≠ 1 then s.respondWith 3 (some 0)
  else
    let s := s.pageFirst pgLoupe
    match s.frameStatus (4 * off.toNat) with
    | 0 =>
      let (v, _, t) := pageRead .loupe pgLoupe (4 * off.toNat) false s
      t.respondWith 0 (some v)
    | n => s.respondWith n (some 0)

/-- A WR frame. -/
def State.wrFrame (s : State) (off : BitVec 10) (v : Word) (crc : Byte) : State :=
  if !s.loupeOn then s
  else if crc ≠ wrCrc off v then s.crcErr none
  else
    let s := s.pageFirst pgLoupe
    match s.frameStatus (4 * off.toNat) with
    | 0 => (pageWrite .loupe pgLoupe (4 * off.toNat) v false none s).1.respondWith 0 none
    | n => s.respondWith n none

/-- A WR frame with the right CRC, for the register at offset `off`. -/
def State.loupeWr (s : State) (off : Nat) (v : Word) : State :=
  s.wrFrame (BitVec.ofNat 10 (off / 4)) v (wrCrc (BitVec.ofNat 10 (off / 4)) v)

/-- The frame whose bits the receiver has collected, once it is whole: CMD, OFF and DATA least significant bit first, and CRC
bit 7 first (R364). -/
def State.frameRun (s : State) : State :=
  match s.lou.frame with
  | none => s
  | some l =>
    if l.length < frameLen l then s
    else
      let f := fun (lo n : Nat) => bitsLE ((l.drop lo).take n)
      let crc := fun (lo : Nat) => BitVec.ofNat 8 (bitsLE ((l.drop lo).take 8).reverse)
      if frameLen l = 58 then s.wrFrame (BitVec.ofNat 10 (f 8 10)) (w32 (f 18 32)) (crc 50)
      else s.rdFrame (BitVec.ofNat 8 (f 0 8)) (BitVec.ofNat 10 (f 8 10)) (crc 18)

/-- LOUPE_PULSE (R362): the pulse that brings the last bit of a frame runs it. DESIGN CHOICE; log entry 53. -/
def execLoupePulse (n : Nat) (early : Bool) (s : State) : Out :=
  let t := s.pulse n early
  .next (if t.lou.frame = s.lou.frame then t else t.frameRun)
/-- RD (R364): a whole frame, break and bits. -/
def execRd (cmd : Byte) (off : BitVec 10) (crc : Byte) (s : State) : Out := .next (s.rdFrame cmd off crc)
/-- WR (R364): a whole frame, break and bits. -/
def execWr (off : BitVec 10) (v : Word) (crc : Byte) (s : State) : Out := .next (s.wrFrame off v crc)

/-- The value of LPSESS with its SLOT and command `n`. -/
def State.sessCmd (s : State) (n : Nat) : Word := w32 (s.rfld pgLoupe 0x040 8 4 * 256 + n)

/-- KNOCK (R367). -/
def execKnock (s : State) : Out := .next (s.loupeWr 0x040 (s.sessCmd 1))
/-- RESPOND (R368). -/
def execRespond (s : State) : Out := .next (s.loupeWr 0x040 (s.sessCmd 2))
/-- CLOSE (R370). -/
def execClose (s : State) : Out := .next (s.loupeWr 0x040 (s.sessCmd 3))
/-- LPREQ_REQ (R372). -/
def execLpreqReq (unit : Byte) (s : State) : Out := .next (s.loupeWr 0x100 (w32 (2 ^ 30 + unit.toNat)))
/-- LPREQ_ALL (R372). -/
def execLpreqAll (s : State) : Out := .next (s.loupeWr 0x100 (w32 (2 ^ 31 + s.rfld pgLoupe 0x100 0 8)))
/-- LPMBTX_WRITE (R375). -/
def execLpmbtxWrite (v : Word) (s : State) : Out := .next (s.loupeWr 0x10C v)
/-- LPMBRX_READ (R375). -/
def execLpmbrxRead (s : State) : Out :=
  .next (s.rdFrame 1 (BitVec.ofNat 10 0x44) (rdCrc 1 (BitVec.ofNat 10 0x44)))

/-! ### Boxes of a unit (R374, R375) -/

/-- DBGMBOUT_WRITE. -/
def execDbgmboutWrite (p : UnitIx) (v : Word) (s : State) : Out :=
  .next (s.put (.unit p) (pgUnit p.val) 0x54C v false none)
/-- DBGMBIN_READ. -/
def execDbgmbinRead (p : UnitIx) (s : State) : Out := .next (s.answer (.unit p) (pgUnit p.val) 0x548)

end Sys2Proof.Machine
end

