-- ==== Sys2Proof/Machine/UnitMem.lean ====
section
/-! DEFINITION. Memory accesses of a unit: targets (R35, R60), the checks of R94 in their order, atomics (R97), peeks
(R98), instruction fetch (R82, R83) and accesses that wait (R95, R289). -/

namespace Sys2Proof.Machine

/-- Key of the word of the home bank that the return stack of unit `p` would use next: a spill's with the hardware entries
full, a fill's otherwise (R54, R56). -/
def State.rsKey (s : State) (p : Nat) : Nat :=
  let t := fld (s.u p).spr.rsp 2 14
  bankKey (cOf p) (s.logU p % 8 * 0x10000 + 4 * (if (s.u p).spr.rs.isEmpty then t else t - 1))

/-- Where a unit address leads (R35, R60). -/
inductive Tgt
  | bank (c b k : Nat)
  | region (r off : Nat)
  | page (pg off : Nat)
  | far (d r off : Nat)
  | host
  | none
  deriving DecidableEq, Repr

/-- The target of an address of unit `p`. The die window of the own die is local region memory (R35). -/
def State.target (s : State) (p : Nat) (a : Word) : Tgt :=
  let n := a.toNat
  if n < 0x80000 then .bank (cOf p) (n / 0x10000) (bankKey (cOf p) n)
  else if n < 0x1000000 then .none
  else if n < 0x1200000 then .region (cOf p / 4) (n - 0x1000000)
  else if n < 0x2000000 then .none
  else if n < 0x2800000 then .region ((n - 0x2000000) / 0x200000) (n % 0x200000)
  else if n < 0x4000000 then .none
  else if n < 0x8000000 then .page ((n - 0x4000000) / 0x1000) (n % 0x1000)
  else if n < 0x10000000 then .none
  else if n < 0x12000000 then
    let d := (n - 0x10000000) / 0x800000
    let r := (n - 0x10000000) % 0x800000 / 0x200000
    if d = s.die then .region r (n % 0x200000) else .far d r (n % 0x200000)
  else if n < 0x80000000 then .none
  else .host

/-! ### Completion -/

/-- The bytes of a size code. -/
def bytesOf (size : Nat) : Nat := 2 ^ size

/-- An access whose data is present: the watchpoint comparison of R378, then completion. -/
def State.doneOne (s : State) (p : Nat) (j : Job) (data : Nat) : State :=
  let s :=
    match j.acc with
    | .load | .peek => s.watch p 27 j.va (some (w32 data))
    | .store => s.watch p 28 j.va (some j.val)
    | .amoadd => s.watch p 29 j.va (some (w32 data + j.val))
    | .amoswp => s.watch p 29 j.va (some j.val)
    | .fetch => s
  s.complete p j data

/-- The value an atomic writes. -/
def amoVal (acc : Acc) (old val : Word) : Word := if acc = .amoadd then old + val else val

/-- An access to the storage word at key `k`: a read, a store that merges, or an atomic (R94, R97). -/
def State.memJob (s : State) (p : Nat) (j : Job) (k : Nat) : State :=
  match j.acc with
  | .store =>
    (match s.memMerge k (bytesOf j.size) j.val.toNat with
     | (.unc, t) => t.eccFault p j
     | (_, t) => (t.wroteA k (s.word8 k)).doneOne p j 0)
  | .amoadd | .amoswp =>
    (match s.memRead k 4 with
     | (.unc, _, t) => t.eccFault p j
     | (_, d, t) =>
       let w := s.word8 k
       let sh := 2 ^ (8 * (k % 8))
       let t := t.setWord8 k (BitVec.ofNat 64 (w.toNat - d * sh + (amoVal j.acc (w32 d) j.val).toNat * sh))
       (t.wroteA k w).doneOne p j d)
  | _ =>
    (match s.memRead k (bytesOf j.size) with
     | (.unc, _, t) => t.eccFault p j
     | (_, d, t) => t.doneOne p j d)

/-! ### Targets -/

/-- The access waits for its target. -/
def State.waitJob (s : State) (p : Nat) (j : Job) : State := s.onU p fun x => { x with stat := .sbwait j }

/-- An access takes its beat, or the two cycles of an atomic, at its resource. -/
def State.takeFor (s : State) (key m : Nat) (j : Job) (k : Nat) : State :=
  if j.acc = .amoadd ∨ j.acc = .amoswp then s.takeAmo key m k else s.take key m 1

/-- The uplink of a unit's region serves the unit in this cycle, and a beat of it taken: host window, die window and register
page traffic (R256). -/
def State.uplink (s : State) (p : Nat) : Bool := s.grants (arbU (cOf p / 4)) (s.upNo p) 0
def State.takeUp (s : State) (p : Nat) : State := s.take (arbU (cOf p / 4)) (s.upNo p) 1

/-- KIND of a die-link request (R414). -/
def flitKind : Acc → Nat
  | .store => 2
  | .amoadd => 3
  | .amoswp => 4
  | _ => 1

/-- The request flit of a die-window access: lane b of BE and DATA is the byte at 8 × ⌊OFFSET / 8⌋ + b. -/
def flitOf (p r off : Nat) (j : Job) : Flit :=
  { src := BitVec.ofNat 8 p, region := BitVec.ofNat 2 r, off := BitVec.ofNat 21 off,
    be := BitVec.ofNat 8 ((2 ^ bytesOf j.size - 1) * 2 ^ (off % 8)), resp := 0,
    data := if flitKind j.acc = 1 then 0 else BitVec.ofNat 64 (j.val.toNat * 2 ^ (8 * (off % 8))), rsv := 0 }

/-- A die-window access to another die (R36, R37). -/
def State.farJob (s : State) (p : Nat) (j : Job) (d r off : Nat) : State :=
  let l := s.portTo d
  if s.pkgMax < d || !(s.l l).up then s.accFault p j j.acc.fault 6 0
  else if !s.uplink p then s.waitJob p j
  else
    let s := s.takeUp p
    let s := s.sendFlit l (flitKind j.acc) (flitOf p r off j)
    let s := s.setL l { s.l l with out := (s.l l).out ++ [(p, flitKind j.acc)] }
    s.onU p fun x => { x with stat := .die j l }

/-- A register page access: U mode, width and atomics are refused; a store takes effect as it completes, unless it
raises LOCK_ORDER (R52, R62, R97, R277). DEDUCED; log entry 49. -/
def State.pageJob (s : State) (p : Nat) (j : Job) (pg off : Nat) : State :=
  let m : Master := if h : p < 144 then .unit ⟨p, h⟩ else .mgmt
  if (s.u p).mode = 0 then s.accFault p j j.acc.fault 3 0
  else if j.size ≠ 2 then s.accFault p j j.acc.fault 4 0
  else if j.acc = .amoadd ∨ j.acc = .amoswp then s.accFault p j 0x07 7 0
  else if !s.uplink p || s.pageBusy pg || (decide (j.acc = .store) && s.storeBusy pg off) then s.waitJob p j
  else
    let s := s.takeUp p
    match j.acc with
    | .store =>
      (match pageWrite m pg off j.val false none s with
       | (t, some info) => t.raise p 0x0D 0 (s.u p).pc info 0
       | _ => (pageWrite m pg off j.val false none (s.doneOne p j 0)).1)
    | _ =>
      let (v, e, t) := pageRead m pg off (decide (j.acc = .peek)) s
      if e = 3 then t.eccFault p j else t.doneOne p j v.toNat

/-- One access in the order of R94; a BCOPY step ends here with its write still to be made. -/
def State.accessOne (s : State) (p : Nat) (j : Job) : State :=
  if j.va.toNat % bytesOf j.size ≠ 0 then
    (s.onU p fun x => { x with stat := .run }).raise p 0x04 0 (s.u p).pc j.ins j.va
  else
    match s.target p j.va with
    | .none => s.accFault p j j.acc.fault 1 0
    | .bank c b k =>
      if s.bankBusy c b || !s.grants (arbA c b) (s.portNo p) k then (s.bankWait c b (s.portNo p) k).waitJob p j
      else (s.takeFor (arbA c b) (s.portNo p) j k).memJob p j k
    | .region r off =>
      if !s.regUp r then s.accFault p j j.acc.fault 5 0
      else if s.segBusy r off || !s.grants (arbM r) (s.regNo p r) (regKey r off) then s.waitJob p j
      else (s.takeFor (arbM r) (s.regNo p r) j (regKey r off)).memJob p j (regKey r off)
    | .page pg off => s.pageJob p j pg off
    | .far d r off => s.farJob p j d r off
    | .host =>
      if j.acc = .amoadd ∨ j.acc = .amoswp then s.accFault p j 0x07 7 0
      else if j.acc = .store ∧ (s.translate p j.va).isSome = true then s.hostAccess p j
      else if !s.uplink p then s.waitJob p j
      else (s.takeUp p).hostAccess p j

/-- After the read of a BCOPY step, its write. -/
def State.runNext (s : State) (p : Nat) (j : Job) : State :=
  match j.after, (s.u p).stat with
  | .bcopyRead _ _ _, .sbwait k =>
    (match k.after with
     | .bcopyWrite _ _ _ => s.accessOne p k
     | _ => s)
  | _, _ => s

/-- A memory access of a unit. -/
def State.access (s : State) (p : Nat) (j : Job) : State := (s.accessOne p j).runNext p j

/-- The data of an access that waited. -/
def State.memDone (s : State) (p : Nat) (j : Job) (data : Nat) : State := (s.doneOne p j data).runNext p j

/-- An access that waits is tried again. -/
def State.retry (s : State) (p : Nat) : State :=
  match (s.u p).stat with
  | .sbwait j => s.access p j
  | .hwait j t => ((s.onU p fun x => { x with stat := .run }).hostIssue p j t).runNext p j
  | _ => s

/-- Unit `p` waits for memory, for the store buffer, or for its home bank. -/
def State.waiting (s : State) (p : Nat) : Bool :=
  match (s.u p).stat with
  | .sbwait _ | .hwait _ _ | .rswait _ => true
  | _ => false

/-- An access that waits for the stores of unit `p` is tried again (R95, R406). -/
def State.retryHost (s : State) (p : Nat) : State :=
  match (s.u p).stat with
  | .hwait _ _ => s.retry p
  | .sbwait j => if bit j.va 31 then s.retry p else s
  | _ => s

/-! ### Fetch (R67, R82, R83) -/

/-- A fetch goes on with a state, or the instruction does not issue. -/
inductive FRes
  | ok (s : State)
  | stop (s : State)
  deriving DecidableEq, Repr

/-- The access of a fetch of the halfword at `a`; `info` is the first halfword when this is the second. -/
def fetchJob (a info : Word) : Job :=
  { acc := .fetch, va := a, size := 1, val := 0, ins := info, len := 0, mc := false, after := .fetch }

/-- The key of the halfword at `a` in memory that can be executed, read at once: its bank or segment is there and not busy
(R60, R83). -/
def State.fetchKey (s : State) (p : Nat) (a : Word) : Option Nat :=
  match s.target p a with
  | .bank c b k => if s.bankBusy c b || !s.grants (arbA c b) (s.portNo p) k then none else some k
  | .region r off =>
    if 0x10000000 ≤ a.toNat ∨ s.regUp r = false ∨ s.segBusy r off = true ∨
        s.grants (arbM r) (s.regNo p r) (regKey r off) = false then none
    else some (regKey r off)
  | _ => none

/-- The beat of a fetch at its resource (R270). -/
def State.fetchBeat (s : State) (p : Nat) : Tgt → State
  | .bank c b _ => s.take (arbA c b) (s.portNo p) 1
  | .region r _ => s.take (arbM r) (s.regNo p r) 1
  | _ => s

/-- The fetch of the halfword at `a` when the fetch queue does not hold it: the halfword and the state after its read. -/
def State.fetchRead (s : State) (p : Nat) (a info : Word) : Half × FRes :=
  let j := fetchJob a info
  match s.target p a, s.fetchKey p a with
  | tg, some k =>
    let s := s.fetchBeat p tg
    (match s.memRead k 2 with
     | (.unc, _, t) => (0, .stop (t.eccFault p j))
     | (_, d, t) => (BitVec.ofNat 16 d, .ok t))
  | .none, none => (0, .stop (s.accFault p j 0x05 1 0))
  | .page _ _, none | .far _ _ _, none => (0, .stop (s.accFault p j 0x05 2 0))
  | .bank c b k, none => (0, .stop ((s.bankWait c b (s.portNo p) k).waitJob p j))
  | .region r _, none =>
    (0, .stop (if 0x10000000 ≤ a.toNat then s.accFault p j 0x05 2 0
      else if !s.regUp r then s.accFault p j 0x05 5 0 else s.waitJob p j))
  | .host, none => (0, .stop (s.accessOne p j))

/-- The fetch of the halfword at `a`, from the fetch queue where that holds it (R83, R84). The command names the
instruction that the unit executes: where the halfword is not `h`, that is not this one, and nothing happens. -/
def State.fetchHalf (s : State) (p : Nat) (a info : Word) (h : Half) : FRes :=
  match (s.u p).hq.find? (fun q => decide (q.a = a)) with
  | some q => if q.w = h then .ok s else .stop s
  | none =>
    match s.fetchRead p a info with
    | (w, .ok t) =>
      if w = h then
        .ok (t.onU p fun x => { x with hq := (x.hq ++ [(⟨a, h, s.cxOf p h⟩ : HqE)]).drop (x.hq.length + 1 - 8) })
      else .stop s
    | (_, .stop t) => .stop t

/-- The fetch of an instruction (R82): the first halfword, then the second of a 32-bit one. DESIGN CHOICE; log entry 2. -/
def State.fetch (s : State) (p : Nat) (e : Enc) : FRes :=
  let x := s.u p
  if x.wrap then .stop (s.raise p 0x05 9 0 ((fetchJob 0 0).descr 9 0) 0)
  else
    match e with
    | .c16 h => s.fetchHalf p x.pc 0 h
    | .w32 i =>
      match s.fetchHalf p x.pc 0 (i.extractLsb' 0 16) with
      | .stop t => .stop t
      | .ok t =>
        if x.pc = 0xFFFFFFFE then .stop (t.raise p 0x05 9 x.pc ((fetchJob 0 0).descr 9 0) 0)
        else t.fetchHalf p (x.pc + 2) (i &&& 0xFFFF) (i.extractLsb' 16 16)

/-- The halfword at `a` enters the fetch queue: from banks and region memory, where it reads without an error. -/
def State.prefetch1 (s : State) (p : Nat) (a : Word) : Option HqE :=
  match (s.u p).hq.find? (fun q => decide (q.a = a)), s.fetchKey p a with
  | some q, _ => some q
  | none, some k =>
    if s.syn k = 0 then
      let h : Half := BitVec.ofNat 16 (s.leN k 2)
      some ⟨a, h, s.cxOf p h⟩
    else none
  | none, none => none

/-- The longest run of halfwords from `a` on that the fetch queue holds or can take, at most `n`. -/
def State.prefetchN (s : State) (p : Nat) (a : Word) : Nat → List HqE
  | 0 => []
  | n + 1 =>
    match s.prefetch1 p a with
    | some q => q :: (if a = 0xFFFFFFFE then [] else s.prefetchN p (a + 2) n)
    | none => []

/-- A unit that stands between two instructions fills its fetch queue: eight halfwords from its program counter on (R83).
Each storage word read for it is a beat of the unit (R270). What is not in banks or region memory is fetched when it is
needed. DESIGN CHOICE; log entry 60. -/
def State.prefetch (s : State) (p : Nat) : State :=
  let x := s.u p
  if s.unitUp p && !x.locked && decide (x.stat = .run) && x.micro.isNone && !x.wrap && !bit x.pc 31 then
    let l := s.prefetchN p x.pc 8
    let new := ((l.filter fun q => decide (¬ q ∈ x.hq)).map fun q => q.a &&& ~~~7).eraseDups
    each new (fun a t => t.fetchBeat p (s.target p a)) (s.onU p fun x => { x with hq := l })
  else s

end Sys2Proof.Machine
end

