-- ==== Sys2Proof/Machine/DieLink.lean ====
section
/-! DEFINITION. The die links (R34 to R39, R248, R262, R413, R414): link state, hello and time flits, requests of other
dies to region memory, and responses. -/

namespace Sys2Proof.Machine

/-- A flit with an unassigned KIND or a non-zero reserved field: DL_LINKREQ is lowered for 1 ms (R414). -/
def State.linkHold (s : State) (j : Nat) : State :=
  let s := s.setL j { s.l j with hold := true }
  if (s.l j).up then s.linkDrop j else s

/-- A received flit takes effect while the link is up; a reserved field that is not 0 takes the port down. -/
def State.flitIn (s : State) (j : Nat) (f : Flit) (go : State → State) : State :=
  if !(s.l j).up then s else if f.rsv ≠ 0 then s.linkHold j else go s

/-- The port may carry flits: it is used, its domain runs and DL_LINKREQ = 1. -/
def State.linkReady (s : State) (j : Nat) : Bool := s.linkUsed j && s.awake (266 + j) && !(s.l j).hold

/-- DL_LINK_UP: the link carries flits, and a hello flit is presented (R38, R414). -/
def execDlLinkUp (j : Fin 3) (s : State) : Out :=
  .next (if s.linkReady j.val && !(s.l j.val).up then
      (s.setL j.val { s.l j.val with up := true, upAt := s.tim.cyc }).sendFlit j.val 7 (dataFlit (b2n (bit s.saf.straps 6) * 4 + s.die))
    else s)

/-- DL_LINK_DOWN (R36, R37). -/
def execDlLinkDown (j : Fin 3) (s : State) : Out := .next (if (s.l j.val).up then s.linkDrop j.val else s)

/-- Every used port has received a hello flit. DEDUCED; log entry 48. -/
def State.helloAll (s : State) : Bool := (below 3 s.linkUsed).all fun j => (s.l j).hello.isSome

/-- HELLO_FLIT: the far die's claim, which ends the exchange (DEDUCED; log entry 48); with the claims of every die known the master is decided and logged (R38). -/
def execHelloFlit (j : Fin 3) (f : Flit) (s : State) : Out :=
  .next (s.flitIn j.val f fun s =>
    let s := s.setL j.val { s.l j.val with hello := some (bit f.data 2, fld f.data 0 2), trip := s.tim.cyc - (s.l j.val).upAt }
    if s.helloAll then
      if 1 < s.claims then s.logDie 0x31 (w32 s.masterDie) 0
      else if s.claims = 0 then s.logDie 0x32 (w32 s.masterDie) 0 else s
    else s)

/-- TIME_FLIT: a follower follows the master's time, corrected by half the round trip of the last hello exchange (R248,
R414). A command that names another correction is none that is due (DEDUCED; log entry 48). -/
def execTimeFlit (j : Fin 3) (f : Flit) (halfTrip : Nat) (s : State) : Out :=
  .next (s.flitIn j.val f fun s =>
    if s.follower && decide (s.portTo s.masterDie = j.val) && s.awake 263 && decide (halfTrip = (s.l j.val).trip / 2) then
      s.follow (f.data.toNat + halfTrip)
    else s)

/-- SNAP_FLIT (R262). -/
def execSnapFlit (j : Fin 3) (f : Flit) (s : State) : Out :=
  .next (s.flitIn j.val f fun s =>
    if s.follower && decide (s.portTo s.masterDie = j.val) && s.awake 244 then s.snapArm f.data.toNat else s)

/-- BAD_FLIT (R414). -/
def execBadFlit (j : Fin 3) (kind : BitVec 4) (f : Flit) (s : State) : Out :=
  .next (if (s.l j.val).up && (decide (9 ≤ kind.toNat) || decide (f.rsv ≠ 0)) then s.linkHold j.val else s)

/-- LINKREQ_HOLD_END (R414). -/
def execLinkreqHoldEnd (j : Fin 3) (s : State) : Out := .next (s.setL j.val { s.l j.val with hold := false })

/-! ### Requests of other dies -/

/-- The bits of the byte lanes that BE enables. -/
def laneMask (be : BitVec 8) : DWord :=
  (List.range 8).foldl (fun a b => if bit be b then a ||| BitVec.ofNat 64 (0xFF * 2 ^ (8 * b)) else a) 0

/-- The response to a request: KIND 5 with the request's fields. -/
def State.flitAnswer (s : State) (j : Nat) (f : Flit) (resp : BitVec 2) (d : DWord) : State :=
  s.sendFlit j 5 { f with resp := resp, data := d }

/-- The word that an atomic of `kind` writes, in the word-sized half at bit `sh` of a storage word. -/
def amoWord (kind sh : Nat) (w d : DWord) : DWord :=
  ins w sh 32 (if kind = 3 then (fld w sh 32 + fld d sh 32) % 2 ^ 32 else fld d sh 32)

/-- A request executed at region memory (R26, R37): KIND 1 read, 2 write, 3 AMOADD, 4 AMOSWP. -/
def State.serveFlit (s : State) (j kind : Nat) (f : Flit) : State :=
  let r := f.region.toNat
  let k := regKey r f.off.toNat
  if !s.regUp r then s.flitAnswer j f 1 0
  else
    let e := synClass (s.syn k)
    let s := s.countEcc k e
    if e = .unc then s.flitAnswer j f 2 0
    else
      let w := s.word8 k
      let m := laneMask f.be
      let sh := k % 8 / 4 * 32
      match kind with
      | 1 => s.flitAnswer j f 0 (w &&& m)
      | 2 => (s.setWord8 k ((w &&& ~~~m) ||| (f.data &&& m))).flitAnswer j f 0 0
      | _ => (s.setWord8 k (amoWord kind sh w f.data)).flitAnswer j f 0 (BitVec.ofNat 64 (fld w sh 32 * 2 ^ sh))

/-- The region memory can serve a request of link `j` in this cycle: its segment is clear and its port grants the link's
traffic (R265, R269, R289). -/
def State.farFree (s : State) (j : Nat) (f : Flit) : Bool :=
  !s.segBusy f.region.toNat f.off.toNat && s.grants (arbM f.region.toNat) (0x28 + j) (regKey f.region.toNat f.off.toNat)

/-- A request: it waits behind an earlier one of its link that waits, and for region memory that is up and cannot serve it
yet. -/
def State.farReq (s : State) (j kind : Nat) (f : Flit) : State :=
  let r := f.region.toNat
  if !(s.l j).wait.isEmpty || (s.regUp r && !s.farFree j f) then
    s.setL j { s.l j with wait := (s.l j).wait ++ [(kind, f)] }
  else
    (if s.regUp r then
      (if kind = 3 ∨ kind = 4 then s.takeAmo (arbM r) (0x28 + j) (regKey r f.off.toNat) else s.take (arbM r) (0x28 + j) 1)
    else s).serveFlit j kind f

/-- The waiting requests of a link tried again, in order; one whose region has gone down meanwhile is answered REGION_DOWN
(R26). -/
def State.farNext (s : State) (j : Nat) : State :=
  each (s.l j).wait (fun q s => s.farReq j q.1 q.2) (s.setL j { s.l j with wait := [] })

/-- READ_FLIT (R37, R414). -/
def execReadFlit (j : Fin 3) (f : Flit) (s : State) : Out := .next (s.flitIn j.val f fun s => s.farReq j.val 1 f)
/-- WRITE_FLIT (R37, R94, R414). -/
def execWriteFlit (j : Fin 3) (f : Flit) (s : State) : Out := .next (s.flitIn j.val f fun s => s.farReq j.val 2 f)
/-- AMOADD_FLIT (R37, R97, R414). -/
def execAmoaddFlit (j : Fin 3) (f : Flit) (s : State) : Out := .next (s.flitIn j.val f fun s => s.farReq j.val 3 f)
/-- AMOSWP_FLIT (R37, R97, R414). -/
def execAmoswpFlit (j : Fin 3) (f : Flit) (s : State) : Out := .next (s.flitIn j.val f fun s => s.farReq j.val 4 f)

/-! ### Responses -/

/-- The oldest outstanding request of a link whose flits carry SRC `src`, and the others. -/
def takeOut (src : BitVec 8) : List (Nat × Nat) → Option ((Nat × Nat) × List (Nat × Nat))
  | [] => none
  | q :: t =>
    if flitSrc q.1 = src then some (q, t)
    else
      match takeOut src t with
      | some (k, l) => some (k, q :: l)
      | none => none

/-- The end of the die-window access of unit `p` (R36, R37). -/
def State.farDone (s : State) (p j : Nat) (f : Flit) : State :=
  match (s.u p).stat with
  | .die job i =>
    if i ≠ j then s
    else
      (match f.resp.toNat with
       | 0 => s.memDone p job (f.data.toNat / 2 ^ (8 * (job.va.toNat % 8)) % 2 ^ (8 * bytesOf job.size))
       | 1 => s.accFault p job job.acc.fault 5 0
       | _ => (s.onU p fun x => { x with stat := .run }).eccFault p job)
  | _ => s

/-- RESPONSE_FLIT: RESP 3 is reserved and takes the port down; a request that nobody waits for any longer has its
response discarded. -/
def execResponseFlit (j : Fin 3) (f : Flit) (s : State) : Out :=
  if (s.l j.val).up && decide (f.rsv = 0) && decide (f.resp ≠ 3) then
    match takeOut f.src (s.l j.val).out with
    | some (q, l) =>
      let s := s.setL j.val { s.l j.val with out := l }
      .next (if 16 ≤ q.2 then s else if 144 ≤ q.1 then s.dmaAnswer q.1 f.resp.toNat f.data else s.farDone q.1 j.val f)
    | none => .fault .spuriousResponseFlit
  else .next (if (s.l j.val).up then s.linkHold j.val else s)

end Sys2Proof.Machine
end

