-- ==== Sys2Proof/Machine/Operands.lean ====
section
/-! DEFINITION. Operand forms of the Laile instructions (R53, R68 to R74), and the issue of an instruction in the order
of R76: fetch, reserved fields, mode. -/

namespace Sys2Proof.Machine

/-! ### Operand values -/

/-- General register named by a field. -/
def gOf {n : Nat} (x : UnitSt) (r : BitVec n) : Word := x.gr r.toNat

/-- First source, second source and destination of a register form (R68, R69). -/
def regOps (x : UnitSt) : RegForm → Word × Word × Nat
  | .c rd rs => (gOf x rd, gOf x rs, rd.toNat)
  | .r f => (gOf x f.rs1, gOf x f.rs2, f.rd.toNat)

/-- A reserved field of format R is not 0. -/
def rfBad (f : RF) : Bool := decide (f.rsv ≠ 0)

/-- A reserved field of a register form is not 0. -/
def regBad : RegForm → Bool
  | .c _ _ => false
  | .r f => rfBad f

/-- As `regBad`, with rd reserved in the 32-bit form (CMP, MUL, MULU). -/
def regBadRd : RegForm → Bool
  | .c _ _ => false
  | .r f => rfBad f || decide (f.rd ≠ 0)

/-- Format R with rd, rs1 or rs2 reserved besides I[21:16]. -/
def rfBadIn (rd rs1 rs2 : Bool) (f : RF) : Bool :=
  rfBad f || (rd && decide (f.rd ≠ 0)) || (rs1 && decide (f.rs1 ≠ 0)) || (rs2 && decide (f.rs2 ≠ 0))

/-- Sign extension and zero extension to 32 bits. -/
def sx {n : Nat} (v : BitVec n) : Word := v.signExtend 32
def zx {n : Nat} (v : BitVec n) : Word := v.zeroExtend 32

/-- Sources and destination of ADDI. -/
def addiOps (x : UnitSt) : AddiForm → Word × Word × Nat
  | .c rd v => (gOf x rd, sx v, rd.toNat)
  | .i f => (gOf x f.rs1, sx f.imm, f.rd.toNat)

/-- Value, count and destination of a shift (R90). -/
def shiftOps (x : UnitSt) : ShiftForm → Word × Nat × Nat
  | .c rd rs => (gOf x rd, fld (gOf x rs) 0 8, rd.toNat)
  | .r f => (gOf x f.rs1, fld (gOf x f.rs2) 0 8, f.rd.toNat)
  | .cs rd sh => (gOf x rd, sh.toNat, rd.toNat)
  | .i rs1 rd _ sh => (gOf x rs1, sh.toNat, rd.toNat)

/-- Reserved fields of a shift. -/
def shiftBad : ShiftForm → Bool
  | .c _ _ | .cs _ _ => false
  | .r f => rfBad f
  | .i _ _ hi _ => decide (hi ≠ 0)

/-- The address of a 16-bit memory form: BNK above the 16-bit sum (R53). -/
def shortEa (x : UnitSt) {n : Nat} (rb : BitVec n) (off : Nat) : Word :=
  w32 (x.spr.bnk.toNat * 0x10000 + (fld (gOf x rb) 0 16 + off) % 0x10000)

/-- The address of a 32-bit memory form. -/
def longEa (x : UnitSt) (f : IF) : Word := gOf x f.rs1 + sx f.imm

/-- Address and transfer register of LW and SW. -/
def wordOps (x : UnitSt) : WordForm → Word × Nat
  | .c rt rb imm => (shortEa x rb (imm.toNat * 4), rt.toNat)
  | .m f => (longEa x f, f.rd.toNat)

/-- Address and transfer register of a byte or halfword form; `sz` is the operand size. -/
def subOps (x : UnitSt) (sz : Nat) : SubForm → Word × Nat
  | .c rt rb imm => (shortEa x rb (imm.toNat * sz), rt.toNat)
  | .m f => (longEa x f, f.rd.toNat)

/-- Address, operand and destination of an atomic (R97). -/
def amoOps (x : UnitSt) : AmoForm → Word × Word × Nat
  | .c rt rb _ => (shortEa x rb 0, gOf x rt, rt.toNat)
  | .r f => (gOf x f.rs1, gOf x f.rs2, f.rd.toNat)

def amoBad : AmoForm → Bool
  | .c _ _ rsv => decide (rsv ≠ 0)
  | .r f => rfBad f

/-- Condition and target offset of B.cond in bytes (R70). -/
def branchOps : BranchForm → Nat × Word
  | .c cond off => (cond.toNat, sx off * 2)
  | .b cond _ off => (cond.toNat, sx off * 2)

def branchBad : BranchForm → Bool
  | .c _ _ => false
  | .b _ rsv _ => decide (rsv ≠ 0)

/-- Offset of J and CALL in bytes. -/
def jumpOff : JumpForm → Word
  | .c off => sx off * 2
  | .j off => sx off * 2

/-- Target register of JR and CALLR. -/
def jrOps (x : UnitSt) : JrForm → Word
  | .c rs _ => gOf x rs
  | .r f => gOf x f.rs1

def jrBad : JrForm → Bool
  | .c _ rsv => decide (rsv ≠ 0)
  | .r f => rfBadIn true false true f

/-- Special register number and general register of MFS and MTS (R101). -/
def sprOps : SprForm → Nat × Nat
  | .c g _ spec => (spec.toNat, g.toNat)
  | .r f => (f.rs2.toNat, f.rd.toNat)

/-- Reserved fields of MFS and MTS, and numbers that name no register (R43). -/
def sprBad : SprForm → Bool
  | .c _ rsv spec => decide (rsv ≠ 0) || decide (16 ≤ spec.toNat)
  | .r f => rfBadIn false true false f || decide (16 ≤ f.rs2.toNat)

def sysBad : SysForm → Bool
  | .c r47 rsv => decide (r47 ≠ 0) || decide (rsv ≠ 0)
  | .r f => rfBadIn true true true f

/-- n of TRAP and its reserved fields. -/
def trapN : TrapForm → Nat
  | .c _ n => n.toNat
  | .r _ n _ _ => n.toNat

def trapBad : TrapForm → Bool
  | .c rsv _ => decide (rsv ≠ 0)
  | .r hi _ rd fn => decide (hi ≠ 0) || decide (rd ≠ 0) || decide (fn ≠ 0)

/-! ### Modes that allow an instruction (R52) -/

def anyMode (_ : Nat) : Bool := true
def notU (m : Nat) : Bool := decide (m ≠ 0)
def onlyM (m : Nat) : Bool := decide (m = 3)

/-! ### Issue -/

/-- Unit `p` is at an instruction boundary and would execute its next instruction: it is up, not locked, waits for
nothing, and has no cause to take first (R150). -/
def State.ready (s : State) (p : Nat) : Bool :=
  s.unitUp p && !(s.u p).locked && decide ((s.u p).stat = .run) && (s.u p).micro.isNone && !s.takeable p

/-- ILLOP of an instruction (R77). -/
def State.illop (s : State) (p : Nat) (e : Enc) (sub : Nat) : State :=
  s.raise p 0x02 sub (s.u p).pc e.info (s.u p).pc

/-- A cause with the instruction in INFO and BADADDR 0 (R135). -/
def State.cause (s : State) (p : Nat) (e : Enc) (code : Nat) : State := s.raise p code 0 (s.u p).pc e.info 0

/-- A fetch watchpoint matches the next instruction (R377, R378). -/
def State.fetchWatch (s : State) (p : Nat) : Option Nat :=
  if (s.u p).dbg.stepping then none else s.wpMatch p 26 (s.u p).pc none

/-- Steps 5 and 6 of R76, then execution. -/
def State.checked (s : State) (p : Nat) (e : Enc) (bad : Bool) (modes : Nat → Bool) (body : State → State) : State :=
  if bad then s.illop p e 1
  else if !modes (s.u p).mode then s.cause p e 0x03
  else body s

/-- The fetch of the instruction `e` at the unit's program counter, the fetch watchpoints, and what follows: with EE = 1
a match keeps the instruction from executing (R379). -/
def State.fetched (s : State) (p : Nat) (e : Enc) (body : State → State) : State :=
  match s.fetch p e with
  | .stop t => t
  | .ok t =>
    match t.fetchWatch p with
    | some n => if (t.u p).ee then t.wpHit p n (t.u p).pc else body (t.wpHit p n (t.u p).pc)
    | none => body t

/-- The issue of an instruction by a unit that is ready (R76). DESIGN CHOICE; log entry 2. -/
def State.issue (s : State) (p : Nat) (e : Enc) (bad : Bool) (modes : Nat → Bool) (body : State → State) : State :=
  if s.ready p then s.fetched p e fun t => t.checked p e bad modes body else s

end Sys2Proof.Machine
end

