-- ==== Sys2Proof/Machine/UnitAlu.lean ====
section
/-! DEFINITION. Register operations, shifts, multiply and divide (R86 to R92). -/

namespace Sys2Proof.Machine

/-- A result written to `rd`, with no flag. -/
def State.setRd (s : State) (p : Nat) (e : Enc) (rd : Nat) (v : Word) : State :=
  (s.onU p fun x => x.setG rd v).seq p e.len

/-- A result with N and Z. -/
def State.logic (s : State) (p : Nat) (e : Enc) (rd : Option Nat) (v : Word) : State :=
  (s.onU p fun x =>
    (match rd with
     | some r => x.setG r v
     | none => x).setS fun r => { r with estat := setNZ r.estat v }).seq p e.len

/-- A result with N, Z, C and V, or OVF when OVE = 1 and V would be 1 (R87, R88). -/
def State.arith (s : State) (p : Nat) (e : Enc) (rd : Option Nat) (v : Arith) : State :=
  if v.v && (s.u p).spr.ove then s.cause p e 0x0B
  else
    (s.onU p fun x =>
      (match rd with
       | some r => x.setG r v.res
       | none => x).setS fun r => { r with estat := setNZCV r.estat v }).seq p e.len

/-- A register form with arithmetic flags. -/
def State.arithForm (s : State) (p : Nat) (e : Enc) (f : RegForm) (bad keep : Bool) (op : Word → Word → Arith) : State :=
  s.issue p e bad anyMode fun s =>
    let (a, b, rd) := regOps (s.u p) f
    s.arith p e (if keep then some rd else none) (op a b)

/-- A register form with logic flags. -/
def State.logicForm (s : State) (p : Nat) (e : Enc) (f : RegForm) (op : Word → Word → Word) : State :=
  s.issue p e (regBad f) anyMode fun s =>
    let (a, b, rd) := regOps (s.u p) f
    s.logic p e (some rd) (op a b)

/-- C of ESTAT. -/
def State.carry (s : State) (p : Nat) : Bool := bit (s.u p).spr.estat 2

/-- ADD (R89). -/
def execAdd (p : UnitIx) (f : RegForm) (s : State) : Out :=
  .next (s.arithForm p.val (encReg 1 1 0x01 0 f) f (regBad f) true fun a b => addc a b false)

/-- SUB (R89). -/
def execSub (p : UnitIx) (f : RegForm) (s : State) : Out :=
  .next (s.arithForm p.val (encReg 1 2 0x01 1 f) f (regBad f) true fun a b => subc a b true)

/-- ADC (R89). -/
def execAdc (p : UnitIx) (f : RF) (s : State) : Out :=
  .next (s.issue p.val (eR 0x01 2 f) (rfBad f) anyMode fun s =>
    s.arith p.val (eR 0x01 2 f) (some f.rd.toNat) (addc (gOf (s.u p.val) f.rs1) (gOf (s.u p.val) f.rs2) (s.carry p.val)))

/-- SBC (R89). -/
def execSbc (p : UnitIx) (f : RF) (s : State) : Out :=
  .next (s.issue p.val (eR 0x01 3 f) (rfBad f) anyMode fun s =>
    s.arith p.val (eR 0x01 3 f) (some f.rd.toNat) (subc (gOf (s.u p.val) f.rs1) (gOf (s.u p.val) f.rs2) (s.carry p.val)))

/-- AND (R89). -/
def execAnd (p : UnitIx) (f : RegForm) (s : State) : Out :=
  .next (s.logicForm p.val (encReg 1 3 0x01 4 f) f fun a b => a &&& b)

/-- OR (R89). -/
def execOr (p : UnitIx) (f : RegForm) (s : State) : Out :=
  .next (s.logicForm p.val (encReg 1 4 0x01 5 f) f fun a b => a ||| b)

/-- XOR (R89). -/
def execXor (p : UnitIx) (f : RegForm) (s : State) : Out :=
  .next (s.logicForm p.val (encReg 1 5 0x01 6 f) f fun a b => a ^^^ b)

/-- ANDN (R89). -/
def execAndn (p : UnitIx) (f : RF) (s : State) : Out :=
  .next (s.issue p.val (eR 0x01 7 f) (rfBad f) anyMode fun s =>
    s.logic p.val (eR 0x01 7 f) (some f.rd.toNat) (gOf (s.u p.val) f.rs1 &&& ~~~(gOf (s.u p.val) f.rs2)))

/-- CMP (R87, R89). -/
def execCmp (p : UnitIx) (f : RegForm) (s : State) : Out :=
  .next (s.arithForm p.val (encReg 1 6 0x01 12 f) f (regBadRd f) false fun a b => subc a b true)

/-- TST (R87, R89). -/
def execTst (p : UnitIx) (rd rs : BitVec 4) (s : State) : Out :=
  .next (s.issue p.val (e16 2 rd rs 6) false anyMode fun s =>
    s.logic p.val (e16 2 rd rs 6) none (gOf (s.u p.val) rd &&& gOf (s.u p.val) rs))

/-- SLT (R89). -/
def execSlt (p : UnitIx) (f : RF) (s : State) : Out :=
  .next (s.issue p.val (eR 0x01 13 f) (rfBad f) anyMode fun s =>
    s.setRd p.val (eR 0x01 13 f) f.rd.toNat
      (w32 (b2n (decide ((gOf (s.u p.val) f.rs1).toInt < (gOf (s.u p.val) f.rs2).toInt)))))

/-- SLTU (R89). -/
def execSltu (p : UnitIx) (f : RF) (s : State) : Out :=
  .next (s.issue p.val (eR 0x01 14 f) (rfBad f) anyMode fun s =>
    s.setRd p.val (eR 0x01 14 f) f.rd.toNat
      (w32 (b2n (decide ((gOf (s.u p.val) f.rs1).toNat < (gOf (s.u p.val) f.rs2).toNat)))))

/-- Source and destination of NEG: rs of the 16-bit form, rs1 of the 32-bit form, whose rs2 is reserved. -/
def negOps (x : UnitSt) : RegForm → Word × Nat
  | .c rd rs => (gOf x rs, rd.toNat)
  | .r f => (gOf x f.rs1, f.rd.toNat)

def negBad : RegForm → Bool
  | .c _ _ => false
  | .r f => rfBadIn false false true f

/-- NEG (R89). -/
def execNeg (p : UnitIx) (f : RegForm) (s : State) : Out :=
  .next (s.issue p.val (encReg 1 7 0x01 15 f) (negBad f) anyMode fun s =>
    s.arith p.val (encReg 1 7 0x01 15 f) (some (negOps (s.u p.val) f).2) (subc 0 (negOps (s.u p.val) f).1 true))

/-- MOV (R89). -/
def execMov (p : UnitIx) (rd rs : BitVec 4) (s : State) : Out :=
  .next (s.issue p.val (e16 1 rd rs 0) false anyMode fun s =>
    s.setRd p.val (e16 1 rd rs 0) rd.toNat (gOf (s.u p.val) rs))

/-- ADDI (R89). -/
def execAddi (p : UnitIx) (f : AddiForm) (s : State) : Out :=
  .next (s.issue p.val (encAddi f) false anyMode fun s =>
    let (a, b, rd) := addiOps (s.u p.val) f
    s.arith p.val (encAddi f) (some rd) (addc a b false))

/-- ANDI (R89). -/
def execAndi (p : UnitIx) (f : IF) (s : State) : Out :=
  .next (s.issue p.val (eI 0x04 f) false anyMode fun s =>
    s.logic p.val (eI 0x04 f) (some f.rd.toNat) (gOf (s.u p.val) f.rs1 &&& zx f.imm))

/-- ORI (R89). -/
def execOri (p : UnitIx) (f : IF) (s : State) : Out :=
  .next (s.issue p.val (eI 0x05 f) false anyMode fun s =>
    s.logic p.val (eI 0x05 f) (some f.rd.toNat) (gOf (s.u p.val) f.rs1 ||| zx f.imm))

/-- XORI (R89). -/
def execXori (p : UnitIx) (f : IF) (s : State) : Out :=
  .next (s.issue p.val (eI 0x06 f) false anyMode fun s =>
    s.logic p.val (eI 0x06 f) (some f.rd.toNat) (gOf (s.u p.val) f.rs1 ^^^ zx f.imm))

/-- CMPI (R87, R89); rd is reserved. -/
def execCmpi (p : UnitIx) (f : IF) (s : State) : Out :=
  .next (s.issue p.val (eI 0x08 f) (decide (f.rd ≠ 0)) anyMode fun s =>
    s.arith p.val (eI 0x08 f) none (subc (gOf (s.u p.val) f.rs1) (sx f.imm) true))

/-- MOVI (R89). -/
def execMovi (p : UnitIx) (rd : BitVec 4) (simm : BitVec 7) (s : State) : Out :=
  .next (s.issue p.val (e16 4 rd (simm.extractLsb' 3 4) (simm.extractLsb' 0 3)) false anyMode fun s =>
    s.setRd p.val (e16 4 rd (simm.extractLsb' 3 4) (simm.extractLsb' 0 3)) rd.toNat (sx simm))

/-- LUI (R89). -/
def execLui (p : UnitIx) (rd : BitVec 5) (imm : BitVec 20) (s : State) : Out :=
  .next (s.issue p.val (eU 0x09 rd imm) false anyMode fun s =>
    s.setRd p.val (eU 0x09 rd imm) rd.toNat (zx imm * 0x1000))

/-- ADDPC (R89). -/
def execAddpc (p : UnitIx) (rd : BitVec 5) (imm : BitVec 20) (s : State) : Out :=
  .next (s.issue p.val (eU 0x0A rd imm) false anyMode fun s =>
    s.setRd p.val (eU 0x0A rd imm) rd.toNat ((s.u p.val).pc + zx imm * 0x1000))

/-! ### Shifts (R90) -/

def State.shiftForm (s : State) (p : Nat) (o : Sh) (n : BitVec 2) (f : ShiftForm) : State :=
  s.issue p (encShift n f) (shiftBad f) anyMode fun s =>
    let (a, c, rd) := shiftOps (s.u p) f
    s.logic p (encShift n f) (some rd) (shift o a c)

/-- SHL and SHLI (R90). -/
def execShl (p : UnitIx) (f : ShiftForm) (s : State) : Out := .next (s.shiftForm p.val .shl 0 f)
/-- SHR and SHRI (R90). -/
def execShr (p : UnitIx) (f : ShiftForm) (s : State) : Out := .next (s.shiftForm p.val .shr 1 f)
/-- SAR and SARI (R90). -/
def execSar (p : UnitIx) (f : ShiftForm) (s : State) : Out := .next (s.shiftForm p.val .sar 2 f)
/-- ROR and RORI (R90). -/
def execRor (p : UnitIx) (f : ShiftForm) (s : State) : Out := .next (s.shiftForm p.val .ror 3 f)

/-! ### Multiply (R91) -/

/-- A product is issued; it is written by PRODUCT_WRITE. -/
def State.mulForm (s : State) (p : Nat) (e : Enc) (f : RegForm) (signed : Bool) : State :=
  s.issue p e (regBadRd f) anyMode fun s =>
    let (a, b, _) := regOps (s.u p) f
    (s.onU p fun x => { x with prods := x.prods ++ [product signed a b] }).seq p e.len

/-- MUL (R91). -/
def execMul (p : UnitIx) (f : RegForm) (s : State) : Out := .next (s.mulForm p.val (encReg 2 4 0x02 0 f) f true)
/-- MULU (R91). -/
def execMulu (p : UnitIx) (f : RegForm) (s : State) : Out := .next (s.mulForm p.val (encReg 2 5 0x02 1 f) f false)

/-- PRODUCT_WRITE (R91): the oldest issued product is written to MH:ML. -/
def execProductWrite (p : UnitIx) (s : State) : Out :=
  .next (match (s.u p.val).prods with
    | [] => s
    | d :: t =>
      s.onU p.val fun x =>
        { x with prods := t, spr := { x.spr with mh := d.extractLsb' 32 32, ml := d.extractLsb' 0 32 } })

/-! ### Divide (R92) -/

/-- A division occupies the unit; `fn` is the function code, 2 DIV, 3 DIVU, 4 REM, 5 REMU. -/
def State.divForm (s : State) (p : Nat) (fn : Nat) (f : RF) : State :=
  let e := eR 0x02 (BitVec.ofNat 4 fn) f
  s.issue p e (rfBad f) anyMode fun s =>
    s.onU p fun x => { x with stat := .divide fn f.rd.toNat (gOf x f.rs1) (gOf x f.rs2) e.info }

/-- DIV (R92). -/
def execDiv (p : UnitIx) (f : RF) (s : State) : Out := .next (s.divForm p.val 2 f)
/-- DIVU (R92). -/
def execDivu (p : UnitIx) (f : RF) (s : State) : Out := .next (s.divForm p.val 3 f)
/-- REM (R92). -/
def execRem (p : UnitIx) (f : RF) (s : State) : Out := .next (s.divForm p.val 4 f)
/-- REMU (R92). -/
def execRemu (p : UnitIx) (f : RF) (s : State) : Out := .next (s.divForm p.val 5 f)

/-- The end of a division: rd, V and DZ, or a trap of R88; with V and DZ never both 1, OVF and DIVZ exclude each
other. -/
def State.divEnd (s : State) (p : Nat) : State :=
  match (s.u p).stat with
  | .divide fn rd a b ins =>
    let (q, r, v, dz) := divide (decide (fn = 2 ∨ fn = 4)) a b
    let s := s.onU p fun x => { x with stat := .run }
    if v && (s.u p).spr.ove then s.raise p 0x0B 0 (s.u p).pc ins 0
    else if dz && (s.u p).spr.dze then s.raise p 0x0A 0 (s.u p).pc ins 0
    else
      (s.onU p fun x =>
        (x.setG rd (if fn ≤ 3 then q else r)).setS fun y =>
          { y with estat := insBit (insBit y.estat 3 v) 4 dz }).seq p 4
  | _ => s

/-- DIVIDE_COMPLETE (R92). -/
def execDivideComplete (p : UnitIx) (s : State) : Out := .next (s.divEnd p.val)

end Sys2Proof.Machine
end

