-- ==== Sys2Proof/Machine/UnitBranch.lean ====
section
/-! DEFINITION. Branches, calls, the return stack and loops (R54 to R57, R99, R100). -/

namespace Sys2Proof.Machine

/-! ### Return stack (R55, R56) -/

/-- FLOOR and TOP of RSP. -/
def Spr.floor (x : Spr) : Nat := fld x.rsp 18 14
def Spr.top (x : Spr) : Nat := fld x.rsp 2 14

/-- Unit address of word `w` of the home bank of unit `p`. -/
def State.homeAddr (s : State) (p w : Nat) : Word := w32 (s.logU p % 8 * 0x10000 + 4 * w)

/-- Outcome of a return stack operation: done, STACK with its subcode and BADADDR, an uncorrectable word at an address,
or a wait for the home bank. -/
inductive SRes
  | ok (s : State)
  | stack (s : State) (sub : Nat) (bad : Word)
  | ecc (s : State) (a : Word)
  | wait (s : State)
  deriving DecidableEq, Repr

/-- The home bank of unit `p` cannot serve its return stack now: it is being cleared or tested, or an atomic of another unit
or a borrowed chunk holds the word (R266, R268, R285, R286, R289). -/
def State.homeBusy (s : State) (p : Nat) : Bool :=
  s.bankBusy (cOf p) (s.logU p % 8) || !s.grants (arbA (cOf p) (s.logU p % 8)) (s.portNo p) (s.rsKey p)

/-- The unit waits for its home bank. -/
def State.homeWait (s : State) (p : Nat) : State := s.bankWait (cOf p) (s.logU p % 8) (s.portNo p) (s.rsKey p)

/-- The spill of the oldest hardware entry (R56). -/
def State.spill (s : State) (p : Nat) : SRes :=
  let x := (s.u p).spr
  let a := s.homeAddr p (x.top - 1)
  if x.top = 0 then .stack s 1 0
  else if x.top * 4 - 4 < x.floor * 4 ∨ 16383 ≤ x.spilled then .stack s 1 a
  else if s.homeBusy p then .wait (s.homeWait p)
  else
    let s := s.take (arbA (cOf p) (s.logU p % 8)) (s.portNo p) 1
    let v := x.rs.getLast?.getD 0
    match s.memMerge (bankKey (cOf p) a.toNat) 4 v.toNat with
    | (.unc, t) => .ecc t a
    | (_, t) =>
      .ok (((t.wroteA (bankKey (cOf p) a.toNat) (s.word8 (bankKey (cOf p) a.toNat))).watch p 28 a (some v)).onU p fun y => y.setS fun r =>
        { r with rs := r.rs.dropLast, spilled := r.spilled + 1, rsp := ins r.rsp 2 14 (r.top - 1) })

/-- A push of a return address (R56). -/
def State.rsPush (s : State) (p : Nat) (a : Word) : SRes :=
  let x := (s.u p).spr
  let put := fun (s : State) => s.onU p fun y => y.setS fun r => { r with rs := a :: r.rs }
  if x.rs.length < Config.returnStack then .ok (put s)
  else if !x.rse then .stack s 1 0
  else
    match s.spill p with
    | .ok t => .ok (put t)
    | r => r

/-- A pop: the return address, or none with the outcome that refuses it; `align` is the filled word of R99 whose bit 0
is 1. TOP + 1 is taken modulo 2^14 (DESIGN CHOICE; log entry 58). -/
def State.rsPop (s : State) (p : Nat) : (Word × State) ⊕ (SRes × Option Word) :=
  let x := (s.u p).spr
  match x.rs with
  | a :: t => .inl (a, s.onU p fun y => y.setS fun r => { r with rs := t })
  | [] =>
    if !x.rse || decide (x.spilled = 0) then .inr (.stack s 2 0, none)
    else if s.homeBusy p then .inr (.wait (s.homeWait p), none)
    else
      let s := s.take (arbA (cOf p) (s.logU p % 8)) (s.portNo p) 1
      let a := s.homeAddr p x.top
      match s.memRead (bankKey (cOf p) a.toNat) 4 with
      | (.unc, _, t) => .inr (.ecc t a, none)
      | (_, d, t) =>
        let t := t.watch p 27 a (some (w32 d))
        if d % 2 = 1 then .inr (.ok t, some (w32 d))
        else
          .inl (w32 d, t.onU p fun y => y.setS fun r =>
            { r with spilled := r.spilled - 1, rsp := ins r.rsp 2 14 ((r.top + 1) % 2 ^ 14) })

/-- FLUSH: entries spilled, oldest first, until none is left or the spill area is full (R56); at most `n`. -/
def State.rsFlush (s : State) (p : Nat) : Nat → SRes
  | 0 => .ok s
  | n + 1 =>
    if (s.u p).spr.rs.isEmpty then .ok s
    else
      match s.spill p with
      | .ok t => t.rsFlush p n
      | r => r

/-- The cause of a refused return stack operation, or its wait: the operation `o` is held and goes on once the home bank
serves it. -/
def State.rsFail (p : Nat) (info : Word) (o : RsOp) : SRes → State
  | .ok s => s
  | .stack s sub bad => s.raise p 0x0C sub (s.u p).pc info bad
  | .ecc s a => s.raise p 0x10 3 (s.u p).pc info a
  | .wait s => s.onU p fun x => { x with stat := .rswait o }

/-- A return stack operation of an instruction, to its end or to a wait: a call, a RET, whose filled word ALIGN refuses when
bit 0 is 1, or a FLUSH, whose uncorrectable word leaves RSP and RSDEPTH as they were before the instruction (R56, R57,
R99). -/
def State.rsRun (s : State) (p : Nat) (o : RsOp) : State :=
  match o with
  | .call ret tgt info =>
    (match s.rsPush p ret with
     | .ok s => s.jump p tgt
     | r => State.rsFail p info o r)
  | .ret info =>
    (match s.rsPop p with
     | .inl (a, s) => s.jump p a
     | .inr (r, some w) => (State.rsFail p info o r).raise p 0x04 0 (s.u p).pc info w
     | .inr (r, none) => State.rsFail p info o r)
  | .flush info len rs spilled rsp =>
    (match s.rsFlush p Config.returnStack with
     | .ok t => t.seq p len
     | .ecc t a =>
       (t.onU p fun y => y.setS fun r => { r with rs := rs, spilled := spilled, rsp := rsp }).raise p 0x10 3 (s.u p).pc info a
     | r => State.rsFail p info o r)
  | .micro => s

/-- A return stack operation that waits is tried again; that of a customer instruction goes on with its microword. -/
def State.rsRetry (s : State) (p : Nat) : State :=
  match (s.u p).stat with
  | .rswait o => if s.homeBusy p then s.homeWait p else (s.onU p fun x => { x with stat := .run }).rsRun p o
  | _ => s

/-! ### Branches and calls (R99) -/

/-- A jump to a register value: ALIGN when bit 0 is 1 (R81). -/
def State.regTarget (s : State) (p : Nat) (e : Enc) (t : Word) (go : State → State) : State :=
  if bit t 0 then s.raise p 0x04 0 (s.u p).pc e.info t else go s

/-- A call: the return address pushed, then the jump. -/
def State.callTo (s : State) (p : Nat) (e : Enc) (t : Word) : State :=
  s.rsRun p (.call ((s.u p).pc + w32 e.len) t e.info)

/-- B.cond (R74, R99). -/
def execBCond (p : UnitIx) (f : BranchForm) (s : State) : Out :=
  .next (s.issue p.val (encBranch f) (branchBad f) anyMode fun s =>
    let (c, off) := branchOps f
    if condHolds c (s.u p.val).spr.estat then s.jump p.val ((s.u p.val).pc + off) else s.seq p.val (encBranch f).len)

/-- J (R99). -/
def execJ (p : UnitIx) (f : JumpForm) (s : State) : Out :=
  .next (s.issue p.val (encJump 0xB 0x21 f) false anyMode fun s => s.jump p.val ((s.u p.val).pc + jumpOff f))

/-- CALL (R56, R99). -/
def execCall (p : UnitIx) (f : JumpForm) (s : State) : Out :=
  .next (s.issue p.val (encJump 0xC 0x22 f) false anyMode fun s =>
    s.callTo p.val (encJump 0xC 0x22 f) ((s.u p.val).pc + jumpOff f))

/-- JR (R81, R99). DEDUCED; log entry 41. -/
def execJr (p : UnitIx) (f : JrForm) (s : State) : Out :=
  .next (s.issue p.val (encJr 5 0 f) (jrBad f) anyMode fun s =>
    s.regTarget p.val (encJr 5 0 f) (jrOps (s.u p.val) f) fun s => s.jump p.val (jrOps (s.u p.val) f))

/-- CALLR (R56, R81, R99). -/
def execCallr (p : UnitIx) (f : JrForm) (s : State) : Out :=
  .next (s.issue p.val (encJr 6 1 f) (jrBad f) anyMode fun s =>
    s.regTarget p.val (encJr 6 1 f) (jrOps (s.u p.val) f) fun s =>
      s.callTo p.val (encJr 6 1 f) (jrOps (s.u p.val) f))

/-- RET (R56, R99). -/
def execRet (p : UnitIx) (r47 : BitVec 4) (rsv : BitVec 3) (s : State) : Out :=
  .next (s.issue p.val (e16 0xD r47 1 rsv) (decide (r47 ≠ 0) || decide (rsv ≠ 0)) anyMode fun s =>
    s.rsRun p.val (.ret (e16 0xD r47 1 rsv).info))

/-- LOOP (R75, R100). -/
def execLoop (p : UnitIx) (f : IF) (s : State) : Out :=
  .next (s.issue p.val (eI 0x24 f) (decide (f.rd ≠ 0) || decide (f.imm.toNat < 2)) anyMode fun s =>
    (s.onU p.val fun x => x.setS fun r =>
      { r with lc := gOf x f.rs1, ls := x.pc + 4, le := x.pc + w32 (2 * f.imm.toNat) }).seqNoLoop p.val 4)

end Sys2Proof.Machine
end

