-- ==== Sys2Proof/Machine/UnitLoad.lean ====
section
/-! DEFINITION. Loads, stores, stack accesses, atomics and peeks of a unit (R93 to R98), the store buffer's drain and the
host master port's responses (R95, R405, R406). -/

namespace Sys2Proof.Machine

/-- The access of an instruction; a store carries its value zero-extended from the size. -/
def jobOf (acc : Acc) (va : Word) (size : Nat) (val : Word) (e : Enc) (after : After) : Job :=
  { acc := acc, va := va, size := size, val := extend size false val.toNat, ins := e.info, len := e.len, mc := false,
    after := after }

/-- A load of a word form. -/
def State.loadWord (s : State) (p : Nat) (e : Enc) (f : WordForm) : State :=
  s.issue p e false anyMode fun s =>
    s.access p (jobOf .load (wordOps (s.u p) f).1 2 0 e (.reg (wordOps (s.u p) f).2 false))

/-- A load of a byte or halfword form. -/
def State.loadSub (s : State) (p : Nat) (e : Enc) (f : SubForm) (size : Nat) : State :=
  s.issue p e false anyMode fun s =>
    s.access p (jobOf .load (subOps (s.u p) (2 ^ size) f).1 size 0 e (.reg (subOps (s.u p) (2 ^ size) f).2 false))

/-- A sign-extending load, 32-bit form only. -/
def State.loadSigned (s : State) (p : Nat) (e : Enc) (f : IF) (size : Nat) : State :=
  s.issue p e false anyMode fun s =>
    s.access p (jobOf .load (longEa (s.u p) f) size 0 e (.reg f.rd.toNat true))

/-- A store of a byte or halfword form. -/
def State.storeSub (s : State) (p : Nat) (e : Enc) (f : SubForm) (size : Nat) : State :=
  s.issue p e false anyMode fun s =>
    let (ea, rt) := subOps (s.u p) (2 ^ size) f
    s.access p (jobOf .store ea size ((s.u p).gr rt) e .plain)

/-- LW (R93). -/
def execLw (p : UnitIx) (f : WordForm) (s : State) : Out := .next (s.loadWord p.val (encWord 6 0x10 f) f)
/-- LH (R93). -/
def execLh (p : UnitIx) (f : IF) (s : State) : Out := .next (s.loadSigned p.val (eI 0x11 f) f 1)
/-- LHU (R93). -/
def execLhu (p : UnitIx) (f : SubForm) (s : State) : Out := .next (s.loadSub p.val (encSub 0 0x12 f) f 1)
/-- LB (R93). -/
def execLb (p : UnitIx) (f : IF) (s : State) : Out := .next (s.loadSigned p.val (eI 0x13 f) f 0)
/-- LBU (R93). -/
def execLbu (p : UnitIx) (f : SubForm) (s : State) : Out := .next (s.loadSub p.val (encSub 1 0x14 f) f 0)

/-- SW (R93). -/
def execSw (p : UnitIx) (f : WordForm) (s : State) : Out :=
  .next (s.issue p.val (encWord 7 0x15 f) false anyMode fun s =>
    let (ea, rt) := wordOps (s.u p.val) f
    s.access p.val (jobOf .store ea 2 ((s.u p.val).gr rt) (encWord 7 0x15 f) .plain))

/-- SH (R93). -/
def execSh (p : UnitIx) (f : SubForm) (s : State) : Out := .next (s.storeSub p.val (encSub 2 0x16 f) f 1)
/-- SB (R93). -/
def execSb (p : UnitIx) (f : SubForm) (s : State) : Out := .next (s.storeSub p.val (encSub 3 0x17 f) f 0)

/-- PUSH (R96). -/
def execPush (p : UnitIx) (rs : BitVec 4) (rsv : BitVec 3) (s : State) : Out :=
  .next (s.issue p.val (e16 0xD rs 7 rsv) (decide (rsv ≠ 0)) anyMode fun s =>
    let a := (s.u p.val).spr.dsp - 4
    s.access p.val (jobOf .store a 2 (gOf (s.u p.val) rs) (e16 0xD rs 7 rsv) (.push a)))

/-- POP (R96). -/
def execPop (p : UnitIx) (rs : BitVec 4) (rsv : BitVec 3) (s : State) : Out :=
  .next (s.issue p.val (e16 0xD rs 8 rsv) (decide (rsv ≠ 0)) anyMode fun s =>
    let a := (s.u p.val).spr.dsp
    s.access p.val (jobOf .load a 2 0 (e16 0xD rs 8 rsv) (.pop rs.toNat (a + 4))))

/-- An atomic (R97). -/
def State.amoForm (s : State) (p : Nat) (acc : Acc) (fn : BitVec 2) (f : AmoForm) : State :=
  s.issue p (encAmo fn f) (amoBad f) anyMode fun s =>
    let (ea, v, rd) := amoOps (s.u p) f
    s.access p (jobOf acc ea 2 v (encAmo fn f) (.reg rd false))

/-- AMOADD (R97). -/
def execAmoadd (p : UnitIx) (f : AmoForm) (s : State) : Out := .next (s.amoForm p.val .amoadd 0 f)
/-- AMOSWP (R97). -/
def execAmoswp (p : UnitIx) (f : AmoForm) (s : State) : Out := .next (s.amoForm p.val .amoswp 1 f)

/-- LDP (R98). -/
def execLdp (p : UnitIx) (f : IF) (s : State) : Out :=
  .next (s.issue p.val (eI 0x19 f) false onlyM fun s =>
    s.access p.val (jobOf .peek (longEa (s.u p.val) f) 2 0 (eI 0x19 f) (.reg f.rd.toNat false)))

/-! ### FENCE and CKPT (R107, R108) -/

/-- The wait of a FENCE or CKPT goes on, ends, or raises the oldest unreported failed store. -/
def State.fenceCheck (s : State) (p : Nat) : State :=
  let x := s.u p
  match x.stat with
  | .fence ck len _ =>
    (match x.lates with
     | (a, code) :: t =>
       (s.onU p fun x => { x with lates := t, stat := .run }).raise p 0x0E 0 x.pc (w32 (t.length * 256 + code)) a
     | [] =>
       if !x.stbuf.isEmpty || s.storesOut p then s
       else if ck then
         (s.onU p fun x => { x with stat := .ckpt len, hq := [] }).setBit (pgNeg (cOf p)) (offSlot (s.logU p)) 28 true
       else (s.seq p len).onU p fun x => { x with hq := [] })
  | _ => s

/-- What waits for the stores of unit `p` goes on: an access, a FENCE or a CKPT. -/
def State.storeDone (s : State) (p : Nat) : State := (s.retryHost p).fenceCheck p

/-! ### Store buffer and host responses -/

/-- STORE_BUFFER_DRAIN (R95): the oldest buffered store leaves the buffer. -/
def execStoreBufferDrain (p : UnitIx) (s : State) : Out :=
  .next (if (s.u p.val).stbuf.isEmpty then s else (s.drain p.val).storeDone p.val)

/-- The lanes of a response read for an access of `2^size` bytes at host address `addr` (R405). -/
def laneData (data : BitVec 256) (addr size : Nat) : Nat := data.toNat / 2 ^ (8 * (addr % 32)) % 2 ^ (8 * 2 ^ size)

/-- The end of a request: `code` is 0, or the host response code of R141. -/
def State.hostDone (s : State) (r : HReq) (code : Nat) (data : BitVec 256) : State :=
  if r.dead then s
  else
    match r.kind with
    | .flush => s.flushDone (decide (code ≠ 0))
    | .store va => (if code = 0 then s else s.lateErr r.id va code).storeDone r.id
    | .walk =>
      (match (s.u r.id).stat with
       | .walk j l =>
         let s := s.onU r.id fun x => { x with stat := .run }
         if code ≠ 0 then s.accFault r.id j 0x08 1 l
         else (s.walkData r.id j l (BitVec.ofNat 64 (laneData data r.addr 3))).runNext r.id j
       | _ => s)
    | .read =>
      (match (s.u r.id).stat with
       | .hread j =>
         if code ≠ 0 then s.accFault r.id j j.acc.fault (0x13 + code) 0
         else s.memDone r.id j (laneData data r.addr r.size)
       | _ => s)

/-- The oldest request of a response's ID and direction, and the requests without it. -/
def takeReq (id : Nat) (wr : Bool) : List HReq → Option (HReq × List HReq)
  | [] => none
  | r :: t =>
    if r.id = id ∧ r.wr = wr then some (r, t)
    else
      match takeReq id wr t with
      | some (q, l) => some (q, r :: l)
      | none => none

/-- The oldest request of an ID that has not timed out yet, and the requests with it marked. -/
def lateReq (id : Nat) : List HReq → Option (HReq × List HReq)
  | [] => none
  | r :: t =>
    if r.id = id ∧ r.timedOut = false then some (r, { r with timedOut := true } :: t)
    else
      match lateReq id t with
      | some (q, l) => some (q, r :: l)
      | none => none

/-- The host port leaves RUN: every host window access that is outstanding fails as if the host did not answer, and no
request is presented (R391, R398). DEDUCED; log entry 25. -/
def State.hostLost (s : State) : State :=
  let l := s.hreqs.filter fun r => !r.timedOut && !r.dead && decide (r.kind ≠ .flush)
  let s := { s with hrq := [], hreqs := s.hreqs.map fun r => if r ∈ l then { r with timedOut := true } else r }
  each l (fun r s => s.hostDone r 3 0) s

/-- HOST_RESPONSE (R405, R406): code 3 is taken as 1; the response of a timed-out request is discarded. -/
def execHostResponse (id : BitVec 8) (wr : Bool) (code : BitVec 2) (data : BitVec 256) (s : State) : Out :=
  match takeReq id.toNat wr s.hreqs with
  | none => .fault .spuriousHostResponse
  | some (r, l) =>
    let s := { s with hreqs := l }
    .next (if r.timedOut then s.retryHost r.id else s.hostDone r (if code = 3 then 1 else code.toNat) data)

/-- HOST_TIMEOUT (R406): the request completes as timed out and stays outstanding until its response. -/
def execHostTimeout (id : BitVec 8) (s : State) : Out :=
  match lateReq id.toNat s.hreqs with
  | none => .fault .spuriousHostResponse
  | some (r, l) => .next (({ s with hreqs := l }).hostDone r 3 0)

end Sys2Proof.Machine
end

