-- ==== Sys2Proof/Machine/UnitSystem.lean ====
section
/-! DEFINITION. Special registers, events, time, system instructions and the entry of asynchronous causes (R43 to R48,
R101 to R112, R134 to R145, R291). -/

namespace Sys2Proof.Machine

/-! ### Special registers (R43 to R47, R101) -/

/-- U mode may not read the register. -/
def sprHidden (n : Nat) : Bool := decide (10 ≤ n ∧ n < 15)

/-- U mode may not write the register. -/
def sprShut (n : Nat) : Bool := decide (n = 2 ∨ n = 3) || sprHidden n

/-- The writable bits of ESTAT, and those of U mode (R45, R47). -/
def estatMask : Word := 0x000EFE1F
def estatUser : Word := 0x00000E1F

/-- Outcome of an MTS to ESTAT: 0 the value is written, 1 RSVD, 2 PRIV (R46, R47). -/
def estatCheck (mode : Nat) (old v : Word) : Nat :=
  let m := fld v 14 2
  let q := fld v 18 2
  if mode = 0 then (if (old ^^^ v) &&& 0x000EF000 = 0 then 0 else 2)
  else if m = 2 ∨ q = 2 then 1
  else if mode = 1 then (if m = 3 ∨ q = 3 then 2 else 0)
  else if m = 3 then 0 else 2

/-- The special registers with register `n` written. -/
def Spr.put (r : Spr) (n : Nat) (v : Word) : Spr :=
  match n with
  | 0x0 => { r with bnk := v.extractLsb' 0 16 }
  | 0x1 => { r with dsp := v }
  | 0x2 => { r with rsp := v &&& 0xFFFCFFFC }
  | 0x3 => { r with spilled := fld v 16 14 }
  | 0x4 => { r with mh := v }
  | 0x5 => { r with ml := v }
  | 0x6 => { r with lc := v }
  | 0x7 => { r with ls := v &&& ~~~1 }
  | 0x8 => { r with le := v &&& ~~~1 }
  | 0x9 =>
    let k := if r.mode = 0 then estatUser else estatMask
    { r with estat := (r.estat &&& ~~~k) ||| (v &&& k) }
  | 0xA => { r with cause := v &&& 0x0000FF3F }
  | 0xB => { r with info := v }
  | 0xC => { r with epc := v &&& ~~~1 }
  | 0xD => { r with badaddr := v }
  | 0xE => { r with ebase := v &&& ~~~0x3F }
  | _ => r

/-- FLUSH after SPILLED has been written (R57). -/
def State.flushMts (s : State) (p : Nat) (e : Enc) (v : Word) : State :=
  let x := (s.u p).spr
  (s.onU p fun y => y.setS fun r => r.put 3 v).rsRun p (.flush e.info e.len x.rs x.spilled x.rsp)

/-- The write of a special register; LC, LS and LE as written stand at LE (R59). -/
def State.mts (s : State) (p : Nat) (e : Enc) (n : Nat) (v : Word) : State :=
  if n = 3 ∧ bit v 31 = true then s.flushMts p e v
  else
    let s := s.onU p fun x => x.setS fun r => r.put n v
    if 6 ≤ n ∧ n ≤ 8 then s.seqNoLoop p e.len else s.seq p e.len

/-- MFS (R43, R101). -/
def execMfs (p : UnitIx) (f : SprForm) (s : State) : Out :=
  .next (s.issue p.val (encSpr 0 0 f) (sprBad f) anyMode fun s =>
    let (n, g) := sprOps f
    if (s.u p.val).mode = 0 ∧ sprHidden n = true then s.cause p.val (encSpr 0 0 f) 0x03
    else s.setRd p.val (encSpr 0 0 f) g (s.sprVal p.val n))

/-- MTS (R43 to R47, R101); a write of COORD is ILLOP RSVD (R28). -/
def execMts (p : UnitIx) (f : SprForm) (s : State) : Out :=
  let e := encSpr 1 1 f
  .next (s.issue p.val e (sprBad f || decide ((sprOps f).1 = 15)) anyMode fun s =>
    let (n, g) := sprOps f
    let v := (s.u p.val).gr g
    if n = 9 then
      (match estatCheck (s.u p.val).mode (s.u p.val).spr.estat v with
       | 0 => s.mts p.val e n v
       | 1 => s.illop p.val e 1
       | _ => s.cause p.val e 0x03)
    else if (s.u p.val).mode = 0 ∧ sprShut n = true then s.cause p.val e 0x03
    else s.mts p.val e n v)

/-! ### Events (R102, R103) -/

/-- The body of WFE: the latch ends it at once, a pending cause lets it complete, and otherwise the unit sleeps at the
next instruction (R102). -/
def State.wfe (s : State) (p len : Nat) : State :=
  if (s.u p).evt then (s.onU p fun x => { x with evt := false, hq := [] }).seq p len
  else if s.anyPend p then (s.onU p fun x => { x with hq := [] }).seq p len
  else (s.onU p fun x => { x.advance len true with stat := .wfe, hq := [] }).wake p

/-- WFE (R102). With EE = 1 a pending cause is taken before it (R48, R139, R150); with EE = 0 the cause lets it complete. -/
def execWfe (p : UnitIx) (f : SysForm) (s : State) : Out :=
  .next (s.issue p.val (encSys 3 1 f) (sysBad f) anyMode fun t => t.wfe p.val (encSys 3 1 f).len)

/-- The logical number under which events of its cluster reach physical unit `p` (R103). -/
def State.eventBit (s : State) (p : Nat) : Option Nat :=
  match (s.c (cOf p)).urepl with
  | some u =>
    if s.uphase (cOf p) = 6 then (if uOf p = 8 then some u else if uOf p = u then none else some (uOf p)) else some (uOf p)
  | none => some (uOf p)

/-- Events sent to the units of cluster `c` named by `m`; those for a unit whose takeover is in progress are discarded
(R300), and bit 8 reaches no unit once the spare has taken over. -/
def State.sendEvents (s : State) (c : Nat) (m : Word) : State :=
  let ph := s.uphase c
  let l := below 9 fun u => bit m u && !(decide (1 ≤ ph ∧ ph ≤ 5) && decide (s.rfld (pgNeg c) 0x044 16 3 = u))
    && !(decide (ph = 6) && decide (u = 8))
  s.onC c fun x => { x with sev := x.sev ++ l.filter fun u => decide (¬ u ∈ x.sev) }

/-- The stores of the sender hold its events back (R103); the SEV waits for them un-issued, so that a cause taken meanwhile
has EPC = the SEV (R150; DESIGN CHOICE, log entry 58). -/
def State.sevForm (s : State) (p : Nat) (e : Enc) (bad : Bool) (send : State → State) : State :=
  s.issue p e bad anyMode fun s => if (s.u p).stbuf.isEmpty then (send s).seq p e.len else s

/-- SEV.C (R103). -/
def execSevC (p : UnitIx) (f : RF) (s : State) : Out :=
  .next (s.sevForm p.val (eR 0x25 7 f) (rfBadIn true false true f) fun s =>
    s.sendEvents (cOf p.val) (gOf (s.u p.val) f.rs1))

/-- SEV.R (R103). -/
def execSevR (p : UnitIx) (f : RF) (s : State) : Out :=
  .next (s.sevForm p.val (eR 0x25 8 f) (rfBadIn true false false f) fun s =>
    let m := gOf (s.u p.val) f.rs2
    each (below 4 fun l => bit (gOf (s.u p.val) f.rs1) l) (fun l s =>
      s.sendEvents (cOf p.val / 4 * 4 + l) m) s)

/-- EVENT_DELIVERY (R103): an event on its way to unit `p` reaches it. -/
def execEventDelivery (p : UnitIx) (s : State) : Out :=
  let c := cOf p.val
  .next (match s.eventBit p.val with
    | some u =>
      if u ∈ (s.c c).sev then
        (s.onC c fun x => { x with sev := x.sev.filter fun v => v ≠ u }).event p.val
      else s
    | none => s)

/-! ### Time (R104) -/

/-- WAITT (R104). -/
def execWaitt (p : UnitIx) (f : RF) (s : State) : Out :=
  let e := eR 0x25 9 f
  .next (s.issue p.val e (rfBadIn true false false f) anyMode fun s =>
    let t : DWord := gOf (s.u p.val) f.rs2 ++ gOf (s.u p.val) f.rs1
    if s.T < t.toNat then s.onU p.val fun x => { x with stat := .waitt t }
    else if s.T = t.toNat then s.seq p.val 4
    else (s.onU p.val fun x => x.setS fun r => { r with estat := insBit r.estat 9 true }).seq p.val 4)

/-- WAITT_TARGET_REACHED (R104). -/
def execWaittTargetReached (p : UnitIx) (s : State) : Out :=
  .next (match (s.u p.val).stat with
    | .waitt t => if t.toNat ≤ s.T then s.seq p.val 4 else s
    | _ => s)

/-! ### FENCE, CKPT, TRAP, ERET, TLBINV, NOP (R107 to R112) -/

/-- A FENCE or CKPT begins its wait. -/
def State.fenceForm (s : State) (p : Nat) (e : Enc) (bad : Bool) (modes : Nat → Bool) (ck : Bool) : State :=
  s.issue p e bad modes fun s => (s.onU p fun x => { x with stat := .fence ck e.len e.info }).fenceCheck p

/-- FENCE (R107). -/
def execFence (p : UnitIx) (f : SysForm) (s : State) : Out :=
  .next (s.fenceForm p.val (encSys 4 0 f) (sysBad f) anyMode false)

/-- CKPT (R108). -/
def execCkpt (p : UnitIx) (f : SysForm) (s : State) : Out :=
  .next (s.fenceForm p.val (encSys 9 3 f) (sysBad f) notU true)

/-- CHECKPOINT_COMPLETE (R290, R291): the state saved is that at the instruction after the CKPT, with MH and ML after every
issued product. -/
def execCheckpointComplete (p : UnitIx) (s : State) : Out :=
  .next (match (s.u p.val).stat with
    | .ckpt len => ((s.onU p.val UnitSt.flushProds).seq p.val len).ckptDone p.val
    | _ => s)

/-- The body of TRAP: it completes, with the loop-end step, and enters with EPC at the next instruction (R100, R109). -/
def State.trap (s : State) (p len n : Nat) : State :=
  let y := (s.u p).advance len true
  if (s.u p).ee then (s.setU p y).raise p 0x01 0 y.pc (w32 n) 0 else s.raise p 0x01 0 y.pc (w32 n) 0

/-- TRAP (R109). -/
def execTrap (p : UnitIx) (f : TrapForm) (s : State) : Out :=
  .next (s.issue p.val (encTrap f) (trapBad f) anyMode fun s => s.trap p.val (encTrap f).len (trapN f))

/-- Leaving M mode: the unit watchdog is reloaded, unless its count had reached 0 before, DEBUG_TOUCH is logged, and STEP starts a single step (R354, R377). -/
def State.leaveM (s : State) (p : Nat) : State :=
  let s := if s.rbit (pgUnit p) 0x2C0 31 then (if (s.u p).dbg.uwd = 0 then s.uwdBiteDue p else s.uwdLoad p) else s
  let s := s.logEv 0x62 (s.coord p) (w32 (s.u p).dbg.heldUs) 0
  s.onU p fun x => x.setD fun d => { d with heldUs := 0, stepping := s.rbit (pgUnit p) 0x540 31 }

/-- The body of ERET (R110). -/
def State.eret (s : State) (p : Nat) : State :=
  let was := (s.u p).mode
  let q := (s.u p).spr.pmode
  let s := (s.onU p fun x =>
    let x := x.flushProds
    x.setS fun r => { r with estat := ins (insBit r.estat 13 (bit r.estat 17)) 14 2 r.pmode }).jump p (s.u p).spr.epc
  if was = 3 ∧ q ≠ 3 then s.leaveM p else s

/-- ERET (R110). -/
def execEret (p : UnitIx) (f : SysForm) (s : State) : Out :=
  .next (s.issue p.val (encSys 2 2 f) (sysBad f) notU fun s =>
    if (s.u p.val).mode = 1 ∧ (s.u p.val).spr.pmode = 3 then s.cause p.val (encSys 2 2 f) 0x03 else s.eret p.val)

/-- TLBINV (R111). -/
def execTlbinv (p : UnitIx) (f : RF) (s : State) : Out :=
  .next (s.issue p.val (eR 0x25 5 f) (rfBadIn true false true f) notU fun s =>
    ((s.invPage p.val (gOf (s.u p.val) f.rs1)).seq p.val 4).onU p.val fun x => { x with hq := [] })

/-- TLBINV.ALL (R111). -/
def execTlbinvAll (p : UnitIx) (f : RF) (s : State) : Out :=
  .next (s.issue p.val (eR 0x25 6 f) (rfBadIn true true true f) notU fun s =>
    ((s.invAll p.val).seq p.val 4).onU p.val fun x => { x with hq := [] })

/-- NOP, and the encodings that no row assigns, which raise ILLOP UNDEF (R76, R112). -/
def execNop (p : UnitIx) (f : NopForm) (s : State) : Out :=
  .next (match f with
    | .sys g => s.issue p.val (encNop f) (sysBad g) anyMode fun s => s.seq p.val (encNop f).len
    | .raw e => s.issue p.val (encNop f) false anyMode fun s => s.illop p.val e 0)

/-! ### Asynchronous causes (R134, R144, R150) -/

/-- The unit stands at a point of R150 where it takes an asynchronous cause: between instructions or block steps, in a
WAITT, or in a FENCE with no failed store to raise. A customer instruction that has run an IPT microword stands there
too. While the fetch of the next instruction waits for a bank, region memory or the host, a cause waits for the fetch to
end, as for the access of any instruction (DESIGN CHOICE; log entry 58). -/
def State.entryPoint (s : State) (p : Nat) : Bool :=
  let x := s.u p
  s.takeable p && s.unitUp p && (x.micro.map (fun m => m.ipt)).getD true &&
    match x.stat with
    | .run | .waitt _ => true
    | .fence false _ _ => x.lates.isEmpty
    | _ => false

/-- EXCEPTION_ENTRY (R137, R150). -/
def execExceptionEntry (p : UnitIx) (s : State) : Out :=
  .next (if s.entryPoint p.val then s.takeAsync p.val (s.u p.val).pc else s)

/-- UIRQ_SOURCE_PENDING (R143, R144): source `i` follows the summary of its page. -/
def execUirqSourcePending (p : UnitIx) (i : Fin 32) (s : State) : Out :=
  let v := s.summary (s.rfld (pgUnit p.val) (0x200 + 4 * i.val) 0 14)
  .next ((s.onU p.val fun x => { x with irq := insBit x.irq i.val v }).wake p.val)

end Sys2Proof.Machine
end

