-- ==== Sys2Proof/Machine/Waiting.lean ====
section
/-! DEFINITION. The masters that wait at the arbiters, and the order in which a cycle serves them (R257, R258, R266, R269,
R272, R289). -/

namespace Sys2Proof.Machine

/-- What may wait at an arbiter: a unit, a DMA channel, the receive and the transmit side of a cluster port and
the rest of the frame it moves, a die link. -/
inductive Waiter
  | unit (p : Nat)
  | dma (c n : Nat)
  | rx (c : Nat)
  | tx (c : Nat)
  | cp (c : Nat)
  | link (j : Nat)
  deriving DecidableEq, Repr

/-- The resource that a waiting unit requests, and its master number there. -/
def State.unitWants (s : State) (p : Nat) : Option (Nat × Nat) :=
  match (s.u p).stat with
  | .sbwait j =>
    (match s.target p j.va with
     | .bank c b _ => some (arbA c b, s.portNo p)
     | .region r _ => some (arbM r, s.regNo p r)
     | .none => none
     | _ => some (arbU (cOf p / 4), s.upNo p))
  | .rswait _ => some (arbA (cOf p) (s.logU p % 8), s.portNo p)
  | _ => none

/-- The resource that a channel's burst requests: its source, and its destination once the reads are in the buffer (R271). -/
def State.dmaWants (s : State) (c n : Nat) : Option (Nat × Nat) :=
  let d := s.dst c n
  if decide (d.n = 0 ∨ d.fly ≠ 0) || !s.dmaRuns c then none
  else
    match s.dmaTgt c (s.reg (pgDma c) (offDma n + (if d.wr then 4 else 0))).toNat with
    | .mem k _ => some (dmaPort c n k)
    | .far _ _ _ => some (arbU (c / 4), 0x24 + c % 4)
    | _ => none

/-- The bank whose port B a side of the cluster port requests: that of its next descriptor, or of its next slot. -/
def State.rxBank (s : State) (c : Nat) : Nat :=
  let p := pgCommon c
  ((s.reg p 0x218).toNat + s.rfld p 0x21C 0 16 % ringSize (s.reg p 0x214) * 2 ^ (11 + fld (s.reg p 0x214) 8 2)) / 0x10000 % 8
def State.txBank (s : State) (c : Nat) : Nat :=
  let p := pgCommon c
  ((s.reg p 0x200).toNat + 32 * (s.rfld p 0x20C 0 16 % ringSize (s.reg p 0x204))) / 0x10000 % 8

/-- The resource that a waiter requests, and its master number there (R265). -/
def State.wants (s : State) : Waiter → Option (Nat × Nat)
  | .unit p => s.unitWants p
  | .dma c n => s.dmaWants c n
  | .rx c => if (s.c c).cpRx then some (arbB c (s.rxBank c), 17) else none
  | .tx c => if (s.c c).cpTx then some (arbB c (s.txBank c), 17) else none
  | .cp c => ((s.c c).cpMore.head?).map fun q => (q.1, 17)
  | .link j => ((s.l j).wait.head?).map fun q => (arbM q.2.region.toNat, 0x28 + j)

/-- A waiter tries again. -/
def State.proceed (s : State) : Waiter → State
  | .unit p => (s.retry p).rsRetry p
  | .dma c n => s.dmaGo c n
  | .rx c => s.deliver c
  | .tx c => s.txDesc c
  | .cp c => s.portNext c
  | .link j => s.farNext j

/-- Everything that waits. -/
def State.waiters (s : State) : List Waiter :=
  (s.units.filter fun e => s.unitUp e.1 && s.waiting e.1).map (fun e => .unit e.1)
    ++ s.clus.flatMap (fun e => e.2.dma.map fun d => .dma e.1 d.1)
    ++ (s.clus.filter fun e => !e.2.cpMore.isEmpty && s.dmaRuns e.1).map (fun e => .cp e.1)
    ++ (s.clus.filter fun e => e.2.cpRx).map (fun e => .rx e.1)
    ++ (s.clus.filter fun e => e.2.cpTx).map (fun e => .tx e.1)
    ++ (s.links.filter fun e => !e.2.wait.isEmpty).map fun e => .link e.1

/-! ### Order of service -/

/-- The owner that the region schedule names for a region memory port or an uplink in this cycle (R257, R258): no code but
0x3F names no master. -/
def State.ownerOf (s : State) (key : Nat) : Option Nat :=
  if key < 256 then none
  else
    match s.curRow (.region (BitVec.ofNat 2 key).toFin) s.T with
    | some (_, act) =>
      let o := fld act (if key < 260 then 0 else 8) 6
      if o = 0x3F then none else some o
    | none => none

/-- Place of a waiter at its resource: the scheduled owner, the home unit, then the others by rank. -/
def State.placeOf (s : State) (w : Waiter) : Nat :=
  match s.wants w with
  | some (key, m) =>
    if s.ownerOf key = some m then 0 else if isHome key m then 1 else 2 + (s.ab key).place m
  | none => 2

/-- A waiter put into a list of waiters and their places, behind those of no higher place. -/
def insertW (e : Waiter × Nat) : List (Waiter × Nat) → List (Waiter × Nat)
  | [] => [e]
  | h :: t => if e.2 < h.2 then e :: h :: t else h :: insertW e t

/-- The waiter is a unit whose access goes to a register page. -/
def State.toPage (s : State) : Waiter → Bool
  | .unit p =>
    (match (s.u p).stat with
     | .sbwait j =>
       (match s.target p j.va with
        | .page _ _ => true
        | _ => false)
     | _ => false)
  | _ => false

/-- Waiters in the order in which this cycle serves them. Units that come first at their uplinks reach a register page in
ascending index (R418). -/
def State.inOrder (s : State) (l : List Waiter) : List Waiter :=
  let o := ((l.map fun w => (w, s.placeOf w)).foldl (fun a e => insertW e a) []).map Prod.fst
  let key := fun w => (s.wants w).map Prod.fst
  let first := l.filter fun w => s.toPage w && decide ((o.find? fun x => key x = key w) = some w)
  first ++ o.filter fun w => decide (¬ w ∈ first)

/-- A cycle begins at every arbiter; a scheduled owner that requests displaces the holder (R258, R269, R272). -/
def State.arbiters (s : State) : State :=
  each (s.arb.map Prod.fst) (fun key t =>
    t.onAb key fun a => a.cycle (match s.ownerOf key with
      | some o => if s.waiters.any fun w => decide (s.wants w = some (key, o)) then some o else none
      | none => none)) s

/-- The march-test engine of a cluster counts a cycle in which it waits for port B (R269). -/
def State.marchWait (s : State) (c : Nat) : State := if (s.c c).mt.want then s.chunkWait c else s

/-- The waiters of one cycle, in order. -/
def State.serve (s : State) : State :=
  each (s.clus.map Prod.fst) (fun c s => s.marchWait c) (each (s.inOrder s.waiters) (fun w s => s.proceed w) s)

/-- A bank or a segment group has become free in this cycle: those that wait at the resources `keys` are served in order as
far as the resource serves them. -/
def State.freed (s : State) (keys : List Nat) : State :=
  each (s.inOrder (s.waiters.filter fun w => (s.wants w).any fun q => decide (q.1 ∈ keys))) (fun w s =>
    match s.wants w with
    | some (key, m) => if s.portFree key m then s.proceed w else s
    | none => s) s

end Sys2Proof.Machine
end

