-- ==== Sys2Proof/Machine/Events.lean ====
section
/-! DEFINITION. Events of the block and of its pins that are no register access: frame path, time, banks, spares,
Safelight, power, clocks and resets. An event that is not due leaves the state as it is. -/

namespace Sys2Proof.Machine

/-- An event of a part that does nothing while `up` does not hold. DESIGN CHOICE; log entry 3. -/
def State.during (s : State) (up : Bool) (go : State → State) : State := if up then go s else s

/-- An event of the Safelight, outside its power-on reset. -/
def State.inSafe (s : State) (go : State → State) : State := s.during (!s.saf.por) go

/-! ### Frame path (R198 to R222) -/

/-- FRAME_RECEIVE (R198). -/
def execFrameReceive (port : Fin 16) (fr : RxFrame) (s : State) : Out := .next (s.receive port.val fr)
/-- EGRESS_SELECTION (R216). -/
def execEgressSelection (port : Fin 16) (s : State) : Out := .next (s.select port)
/-- TRANSMISSION_END (R215). -/
def execTransmissionEnd (port : Fin 16) (s : State) : Out := .next (s.txEnd port)
/-- FP_LINK_DOWN (R200). -/
def execFpLinkDown (port : Fin 16) (s : State) : Out := .next (s.fpLink port false)
/-- FP_LINK_UP (R200). -/
def execFpLinkUp (port : Fin 16) (s : State) : Out := .next (s.fpLink port true)
/-- PREEMPTION_VERIFY_END (R219). -/
def execPreemptionVerifyEnd (port : Fin 16) (ok : Bool) (s : State) : Out := .next (s.verifyEnd port.val ok)
/-- TX_DESCRIPTOR (R203). -/
def execTxDescriptor (c : ClusterIx) (s : State) : Out := .next (s.txDesc c.val)
/-- CLUSTER_PORT_DELIVERY (R203). -/
def execClusterPortDelivery (c : ClusterIx) (s : State) : Out := .next (s.deliver c.val)

/-- The part that holds a time-driven list runs. -/
def State.listUp (s : State) : ListId → Bool
  | .region r => s.regUp r.val
  | _ => s.awake 262

/-- GATE_LIST_CHANGE (R212). -/
def execGateListChange (l : ListId) (s : State) : Out := .next (s.during (s.listUp l) fun s => s.gateChange l)
/-- LIST_SWAP (R212). -/
def execListSwap (l : ListId) (s : State) : Out := .next (s.during (s.listUp l) fun s => s.swapStep l)
/-- SCHEDULE_ROW_CHANGE (R255). -/
def execScheduleRowChange (l : ListId) (s : State) : Out := .next (s.during (s.listUp l) fun s => s.rowStep l)

/-! ### Time (R245 to R260) -/

/-- TIME_STEP (R245, R248): the TBCLK edge with a requested step, or with a follower's step to its master; no
other moment of the cycle of TBCLK is one. -/
def execTimeStep (s : State) : Out :=
  .next (s.during (s.atEdge && (s.tim.stepPend || s.tim.jump.isSome)) State.edgeNow)
/-- SLEW_END (R245): the TBCLK edge that applies the last half ns of a slew. -/
def execSlewEnd (s : State) : Out :=
  .next (s.during (s.atEdge && !s.tim.stepPend && s.tim.jump.isNone && decide (s.tim.slew = 1 ∨ s.tim.slew = -1)) State.edgeNow)
/-- TIME_PULSE (R251). -/
def execTimePulse (n : Fin 2) (s : State) : Out := .next (s.during (s.awake 263) fun s => s.tpStart n.val)
/-- TIME_PULSE_END (R251). -/
def execTimePulseEnd (n : Fin 2) (s : State) : Out := .next (s.during (s.awake 263) fun s => s.tpEnd n.val)
/-- TIME_PULSE_CAPTURE (R251). -/
def execTimePulseCapture (n : Fin 2) (level : Bool) (s : State) : Out :=
  .next (s.during (s.awake 263) fun s => s.tpCapture n.val level)
/-- SNAP (R260). -/
def execSnap (s : State) : Out := .next (s.during (s.awake 244) State.snapDue)

/-! ### Banks, DMA, locks, march test (R275 to R289) -/

/-- DMA_BURST (R275). -/
def execDmaBurst (c : ClusterIx) (n : Fin 8) (meets : List Nat) (s : State) : Out :=
  .next (s.dmaBurst c.val n.val meets)
/-- LOCK_GRANT (R277). -/
def execLockGrant (c : ClusterIx) (n : Fin 64) (s : State) : Out :=
  .next (s.during (s.cluUp c.val) fun s => s.lockGrant c.val n.val)
/-- CHUNK_PASS (R286). -/
def execChunkPass (c : ClusterIx) (bad : List (Nat × Nat)) (yielded : Bool) (s : State) : Out :=
  .next (s.during (s.cluUp c.val) fun s => s.chunkPass c.val bad yielded)
/-- CHUNK_RETRY (R286). -/
def execChunkRetry (c : ClusterIx) (s : State) : Out := .next (s.during (s.cluUp c.val) fun s => s.chunkRetry c.val)
/-- MARCH_TEST_END (R283, R285). -/
def execMarchTestEnd (c : ClusterIx) (bad : List (Nat × Nat × Nat)) (s : State) : Out :=
  .next ((s.inSafe fun s => s.marchEnd c.val bad).freed ((List.range 16).map fun i => 16 * c.val + i))
/-- BANK_CLEAR_COMPLETE (R289, R369): accesses that waited for the bank proceed. -/
def execBankClearComplete (c : ClusterIx) (b : Fin 8) (s : State) : Out :=
  .next ((s.inSafe fun s => s.clearDone c.val b.val).freed [arbA c.val b.val, arbB c.val b.val])
/-- REGION_MEMORY_CLEAR_COMPLETE (R289): accesses that waited for the segments proceed. -/
def execRegionMemoryClearComplete (r : RegionIx) (group : Fin 4) (s : State) : Out :=
  .next ((s.inSafe fun s => (s.segClear r.val group.val).rcStores).freed [arbM r.val])

/-! ### Takeover and watchdogs (R298 to R304, R354, R355) -/

/-- UNIT_TAKEOVER (R298, R304). -/
def execUnitTakeover (c : ClusterIx) (regErr : List (Fin 8)) (s : State) : Out :=
  .next (s.during (s.cluUp c.val) fun s => s.takeover c.val regErr)
/-- REEL_TAKEOVER (R301, R304). -/
def execReelTakeover (c : ClusterIx) (mismatch : List (Fin 5)) (s : State) : Out :=
  .next (s.during (s.cluUp c.val) fun s => s.reelTakeover c.val mismatch)
/-- REPLAY_TIMEOUT (R299). -/
def execReplayTimeout (c : ClusterIx) (s : State) : Out :=
  .next (s.during (s.cluUp c.val) fun s => s.replayTimeout c.val)
/-- WATCHDOG_WARN (R354). -/
def execWatchdogWarn (p : UnitIx) (s : State) : Out := .next (s.uwdWarn p.val)
/-- WDT_BITE (R354). -/
def execWdtBite (p : UnitIx) (s : State) : Out := .next (s.uwdBiteDue p.val)
/-- SWDWARN (R355). -/
def execSwdwarn (s : State) : Out := .next (s.inSafe State.swdWarn)
/-- SYSWDT_BITE (R355). -/
def execSyswdtBite (s : State) : Out := .next (s.inSafe State.swdBite)

/-! ### Developer and Safelight (R329 to R360) -/

/-- DEVELOPER_SEQUENCE (R329). -/
def execDeveloperSequence (scan : BitVec 4) (exam : BitVec 2) (bad : Option Nat) (s : State) : Out :=
  .next (s.devSeq scan exam bad)
/-- DVCMD_DONE (R332). -/
def execDvcmdDone (s : State) : Out := .next s.dvDone
/-- RCCMD_DONE (R338). -/
def execRccmdDone (s : State) : Out := .next s.rcDone
/-- UPDATE_COMMAND_DONE (R360). -/
def execUpdateCommandDone (s : State) : Out := .next s.upDone
/-- KEY_STORE_COMMAND_DONE (R352). -/
def execKeyStoreCommandDone (s : State) : Out := .next s.ksDone
/-- TAMPER (R352): the inputs of `mask` have been low for two RC cycles. -/
def execTamper (mask : BitVec 4) (s : State) : Out := .next (s.inSafe fun s => s.tamper mask)
/-- TEMPERATURE_SAMPLE (R347). -/
def execTemperatureSample (n : Fin 20) (value : Half) (s : State) : Out := .next (s.inSafe fun s => s.temp n.val value)
/-- VOLTAGE_SAMPLE (R347). -/
def execVoltageSample (n : Fin 8) (value : Half) (s : State) : Out := .next (s.inSafe fun s => s.volt n.val value)
/-- CLOCK_MONITOR (R347). -/
def execClockMonitor (d : Fin 42) (inTol : Bool) (count : Word) (s : State) : Out :=
  .next (s.inSafe fun s => s.clockMon d.val inTol count)
/-- XTAL_CHECK (R342). -/
def execXtalCheck (good : Bool) (s : State) : Out := .next (s.inSafe fun s => s.xtalCheck good)
/-- MGMT_RESTART (R343). -/
def execMgmtRestart (s : State) : Out := .next (s.inSafe State.mgmtRestart)
/-- SL_ALIVE_TOGGLE (R343). -/
def execSlAliveToggle (s : State) : Out :=
  .next (s.inSafe fun s => if s.awake 265 then { s with saf := { s.saf with alive := !s.saf.alive } } else s)
/-- LOG_RECORD_WRITE (R350). -/
def execLogRecordWrite (s : State) : Out := .next (s.inSafe State.logWrite)
/-- LOG_FLUSH (R351). -/
def execLogFlush (s : State) : Out := .next (s.inSafe State.logFlush)
/-- WAKE_PAD (R356, R357): the wake pads are sampled, and those active for their debounce samples fire. -/
def execWakePad (pads : BitVec 16) (s : State) : Out := .next (s.inSafe fun s => s.wakePads pads)
/-- WAKE_ALARM (R356). -/
def execWakeAlarm (s : State) : Out := .next (s.inSafe State.wakeAlarm)
/-- OTP_SUPPLY_PRESENT (R288). -/
def execOtpSupplyPresent (s : State) : Out := .next s.vppRise

/-- PRESENCE_RESPONSE (R358): the answer to an access to a page that is not served; a write is discarded. -/
def execPresenceResponse (m : Master) (page : BitVec 14) (write : Bool) (s : State) : Out :=
  .next (if s.served page.toNat then s
    else if write then s.put m page.toNat 0 0 false none
    else s.answer m page.toNat 0)

/-! ### Power, clocks, resets (R383 to R397) -/

/-- POWER_TRANSITION_STEP (R390). -/
def execPowerTransitionStep (timeout : Bool) (s : State) : Out :=
  .next (s.inSafe fun s => let t := s.pwStep timeout; if s.hostUp && !t.hostUp then t.hostLost else t)

/-- PCACK (R393). -/
def execPcack (s : State) : Out :=
  if s.pw.pcreq then .next { s with pw := { s.pw with acked := true } } else .fault .uninvitedPcack

/-- CKACK (R383). -/
def execCkack (i : Fin 7) (s : State) : Out :=
  .next { s with pw := { s.pw with ckack := insBit s.pw.ckack i.val true } }
/-- CKACK_DROP (R383): the clock monitors act under CLOCK_MONITOR, and the domains keep their states. -/
def execCkackDrop (i : Fin 7) (s : State) : Out :=
  .next { s with pw := { s.pw with ckack := insBit s.pw.ckack i.val false } }

/-- PCSLPREQ (R394). -/
def execPcslpreq (s : State) : Out := .next (s.during (!s.saf.por && s.awake 244) fun s => s.flag pgPower 1)

/-- CORE_OK_FALL (R394). -/
def execCoreOkFall (s : State) : Out := .next (s.during s.pw.coreOk State.coreOff)

/-- CORE_POWER_ON_RESET (R396): CORE_OK rises. During the Safelight's power-on reset the whole die is in reset already. -/
def execCorePowerOnReset (straps : Straps) (s : State) : Out :=
  .next (if s.pw.coreOk then s
    else if s.saf.por then { s with pw := { s.pw with coreOk := true, dom := allDown } }
    else s.corePor straps)

/-- SAFELIGHT_POWER_ON_RESET (R341). -/
def execSafelightPowerOnReset (s : State) : Out := .next (s.inSafe State.slPor)
/-- SAFELIGHT_POR_RELEASE (R32, R341). -/
def execSafelightPorRelease (straps : Straps) (s : State) : Out := .next (s.slRelease straps)
/-- RESET_RELEASE (R396). -/
def execResetRelease (sc : Scope) (s : State) : Out := .next (s.resetRelease sc)

/-- HOST_INTERRUPT_LINE (R409): line `n` follows the summary of its page, and is 0 while the fabric does not run.
DESIGN CHOICE; log entry 51. -/
def execHostInterruptLine (n : Fin 64) (s : State) : Out :=
  let v := s.reg 0x008 (0x300 + 4 * n.val)
  .next { s with irqs := insBit s.irqs n.val (s.awake 244 && bit v 31 && s.summary (fld v 0 14)) }

/-- IRQ[n] at the block port: a line whose page no longer runs, or no longer asks, is 0 (R398, R409). DESIGN CHOICE; log
entry 51. -/
def State.irqLine (s : State) (n : Nat) : Bool :=
  let v := s.reg 0x008 (0x300 + 4 * n)
  bit s.irqs n && s.awake 244 && bit v 31 && s.summary (fld v 0 14)

end Sys2Proof.Machine
end

