-- ==== Sys2Proof/Machine/Micro.lean ====
section
/-! DEFINITION. Customer instructions: the decode-table entry (R78 to R80, R127), microword checks (R125), operands,
ALU, conditions, sequencing and interrupt points (R117 to R128). -/

namespace Sys2Proof.Machine

/-! ### Fields of a microword (R117) -/

abbrev MW := BitVec 128

def mwNext (w : MW) : Nat := fld w 116 12
def mwSeq (w : MW) : Nat := fld w 113 3
def mwRa (w : MW) : Nat := fld w 80 6
def mwRb (w : MW) : Nat := fld w 74 6
def mwRw (w : MW) : Nat := fld w 68 6
def mwAlu (w : MW) : Nat := fld w 63 5
def mwBsel (w : MW) : Nat := fld w 61 2
def mwWsrc (w : MW) : Nat := fld w 58 3
def mwFlg (w : MW) : Nat := fld w 56 2
def mwMem (w : MW) : Nat := fld w 53 3
def mwSpr (w : MW) : Nat := fld w 48 5
def mwSpw (w : MW) : Bool := bit w 47
def mwSide (w : MW) : Nat := fld w 44 3
def mwMcnt (w : MW) : Nat := fld w 42 2
def mwLit (w : MW) : Half := w.extractLsb' 26 16
def mwIpt (w : MW) : Bool := bit w 25
/-- Condition code of multiplexer `i`. -/
def mwC (w : MW) (i : Nat) : Nat := fld w (104 - 6 * i) 6

/-- The condition of multiplexer CSEL, inverted when CPOL = 1. -/
def mwCond (w : MW) (c : Nat → Bool) : Bool := c (mwC w (fld w 111 2)) != bit w 110

/-! ### Checks (R117 to R119, R123) -/

/-- A register specifier that the format does not have, or that names nothing. -/
def badSpec (fmt r : Nat) : Bool :=
  decide (0x2A ≤ r) || (decide (fmt = 2) && decide (0x20 ≤ r ∧ r ≤ 0x22)) || (decide (fmt = 1) && decide (r = 0x22))

/-- A register specifier that cannot be written. -/
def noWrite (r : Nat) : Bool := decide (r = 0x21 ∨ r = 0x22 ∨ r = 0x27)

/-- Row 3 of R125: field contents, and the NEXT of MWAY (R123). -/
def badWord (fmt : Nat) (w : MW) : Bool :=
  decide (fld w 0 25 ≠ 0) || decide (0x10 ≤ mwSpr w) || badSpec fmt (mwRa w) || badSpec fmt (mwRb w)
    || badSpec fmt (mwRw w) || (decide (mwWsrc w ≠ 0) && noWrite (mwRw w))
    || (decide (4 ≤ mwMem w) && decide (mwWsrc w ≠ 0)) || (decide (mwSide w = 4) && decide (fld (mwLit w) 0 8 < 0x80))
    || (decide (mwRw w = 0x28) && decide (mwMcnt w ≠ 0)) || (decide (mwSeq w = 7) && decide (mwNext w % 16 ≠ 0))

/-! ### Operands and ALU (R118, R120) -/

/-- The operand of the customer format that a microword reads as DIMM (R79, R117). -/
def dimm (fmt : Nat) (i : Word) : Word :=
  match fmt with
  | 0 => w32 (fld i 16 6 * 4 + fld i 0 2)
  | 1 => sx (BitVec.ofNat 13 (fld i 16 11 * 4 + fld i 0 2))
  | _ => w32 (fld i 16 16 * 2 ^ 7 + fld i 4 5 * 4 + fld i 0 2)

/-- The register that rd of a customer instruction names. -/
def cxRd (i : Word) : Nat := fld i 4 5

/-- A register specifier read (R118). -/
def specVal (x : UnitSt) (m : Micro) (r : Nat) : Word :=
  if r < 0x20 then x.gr r
  else
    match r with
    | 0x20 => x.gr (cxRd m.ins)
    | 0x21 => m.rs1
    | 0x22 => m.rs2
    | 0x27 => m.mdr
    | 0x28 => m.mc.zeroExtend 32
    | 0x29 => 0
    | _ => Tab.get 0 m.t (r - 0x23)

/-- Operands A and B. -/
def opA (x : UnitSt) (m : Micro) (w : MW) : Word := specVal x m (mwRa w)
def opB (x : UnitSt) (m : Micro) (w : MW) : Word :=
  match mwBsel w with
  | 0 => specVal x m (mwRb w)
  | 1 => zx (mwLit w)
  | 2 => dimm m.fmt m.ins
  | _ => sx (mwLit w)

/-- A result without carry and overflow. -/
def plainRes (r : Word) : Arith := ⟨r, false, false⟩

/-- Leading zeros and ones of a word. -/
def clz (a : Word) : Nat := if a = 0 then 32 else 31 - a.toNat.log2
def popcount (a : Word) : Nat := (below 32 fun i => bit a i).length

/-- The ALU (R120); `c` is ESTAT.C at the start of the microword. -/
def microAlu (op : Nat) (a b : Word) (c : Bool) : Arith :=
  match op with
  | 0x00 => plainRes a
  | 0x01 => plainRes b
  | 0x02 => addc a b false
  | 0x03 => subc a b true
  | 0x04 => addc a b c
  | 0x05 => subc a b c
  | 0x06 => plainRes (a &&& b)
  | 0x07 => plainRes (a ||| b)
  | 0x08 => plainRes (a ^^^ b)
  | 0x09 => plainRes (a &&& ~~~b)
  | 0x0A => plainRes (shift .shl a (fld b 0 8))
  | 0x0B => plainRes (shift .shr a (fld b 0 8))
  | 0x0C => plainRes (shift .sar a (fld b 0 8))
  | 0x0D => plainRes (shift .ror a (fld b 0 8))
  | 0x0E => plainRes (w32 (b2n (decide (a.toInt < b.toInt))))
  | 0x0F => plainRes (w32 (b2n (decide (a.toNat < b.toNat))))
  | 0x10 => plainRes (w32 (crcFold a.toNat (natLE b.toNat 1)))
  | 0x11 => plainRes (w32 (crcFold a.toNat (natLE b.toNat 4)))
  | 0x12 => plainRes (w32 (leNat (natBE a.toNat 4)))
  | 0x13 => plainRes (w32 (clz a))
  | 0x14 => plainRes (w32 (popcount a))
  | 0x15 => plainRes (if a.toInt ≤ b.toInt then a else b)
  | 0x16 => plainRes (if a.toInt ≤ b.toInt then b else a)
  | 0x17 => plainRes (if a.toNat ≤ b.toNat then a else b)
  | 0x18 => plainRes (if a.toNat ≤ b.toNat then b else a)
  | 0x19 => addc a 1 false
  | 0x1A => subc a 1 true
  | 0x1B => plainRes (~~~a)
  | 0x1C => plainRes (w32 (fld a 16 16 * 2 ^ 16 + fld b 0 16))
  | 0x1D => plainRes (sx (a.extractLsb' 0 8))
  | 0x1E => plainRes (sx (a.extractLsb' 0 16))
  | _ => plainRes 0

/-! ### Conditions (R124, R126) -/

/-- The report of selector WATCHj of unit `p` (R126): Reels and pads are those of the own cluster. -/
def State.watchSel (s : State) (p j : Nat) : Bool :=
  let v := s.reg (pgUnit p) (0x300 + 4 * j)
  let e := fld v 4 3
  let k := fld v 0 4
  let r := s.physR (5 * cOf p + e)
  match fld v 14 2 with
  | 1 => decide (e < 5) && decide (s.owner r k = k) && !((s.r r).rxq k).isEmpty
  | 2 => decide (e < 5) && decide (s.owner r k = k) && decide (((s.r r).txq k).length < s.cap r k)
  | 3 => Tab.get false s.pads (32 * cOf p + fld v 8 5)
  | _ => false

/-- A condition; `r` is the result of this microword's ALU. -/
def State.microCond (s : State) (p : Nat) (m : Micro) (r : Arith) (code : Nat) : Bool :=
  let x := s.u p
  let e := x.spr.estat
  let my := (s.c (cOf p)).shmy (s.logU p)
  if 0x30 ≤ code then bit (Tab.get 0 m.t 0) (code - 0x30)
  else if 0x20 ≤ code then s.watchSel p (code - 0x20)
  else
    match code with
    | 0x00 => true
    | 0x01 => decide (r.res = 0)
    | 0x02 => bit r.res 31
    | 0x03 => r.c
    | 0x04 => r.v
    | 0x05 => bit e 0
    | 0x06 => bit e 1
    | 0x07 => bit e 2
    | 0x08 => bit e 3
    | 0x09 => bit e 4
    | 0x0A => decide (m.mc = 0)
    | 0x0B => !x.prods.isEmpty
    | 0x0C => false
    | 0x0D => m.undo.isNone
    | 0x0E => x.stbuf.isEmpty
    | 0x0F => x.evt
    | 0x10 => x.ee && s.anyPend p
    | 0x11 => x.ee
    | 0x12 => decide (x.mode = 0)
    | 0x13 => decide (x.mode = 3)
    | 0x14 => decide (x.spr.lc ≠ 0)
    | 0x15 => decide ((Tab.get 0 m.t 1).toNat * 2 ^ 32 + (Tab.get 0 m.t 0).toNat ≤ s.T)
    | 0x16 => my.granted && !my.pend
    | 0x17 => my.granted && my.aband
    | 0x18 => true
    | 0x19 => decide (x.spr.rs.length = 16)
    | 0x1A => x.spr.rs.isEmpty
    | 0x1B => bit e 9
    | 0x1C => x.spr.dze
    | 0x1D => x.spr.ove
    | 0x1E => x.spr.rse
    | _ => false

/-! ### Sequencing (R122, R123) -/

/-- Where a transfer goes: none for CONT, DISPATCH, WAIT and a RET with an empty microstack. -/
def transfer (m : Micro) (w : MW) (c : Nat → Bool) : Option Nat :=
  match mwSeq w with
  | 1 | 3 => some (mwNext w)
  | 2 => some (if mwCond w c then mwNext w else m.upc + 2)
  | 4 => m.stack.head?
  | 7 =>
    some (mwNext w / 16 * 16 + b2n (c (mwC w 3)) * 8 + b2n (c (mwC w 2)) * 4 + b2n (c (mwC w 1)) * 2 + b2n (c (mwC w 0)))
  | _ => none

/-- A microaddress of the WCS. -/
def inWcs (a : Nat) : Bool := decide (0x800 ≤ a ∧ a < 0xC00)

/-- The microaddress after this one: the target of the transfer before it, or a + 1. -/
def Micro.after (m : Micro) : Nat := m.target.getD (m.upc + 1)

/-- Row 5 of R125: a microword that ends the instruction goes nowhere. DEDUCED; log entry 32. -/
def badTarget (m : Micro) (w : MW) (c : Nat → Bool) : Bool :=
  if mwSeq w = 5 then false else !inWcs m.after || !((transfer m w c).map inWcs).getD true

/-- Row 6 of R125. -/
def badStack (m : Micro) (w : MW) : Bool :=
  (decide (mwSeq w = 3) && decide (4 ≤ m.stack.length)) || (decide (mwSeq w = 4) && m.stack.isEmpty)

/-! ### Effects -/

/-- The microcode of the unit goes on, or stands still: it has ended, waits, or is at an interrupt point. -/
inductive MRes
  | go (s : State)
  | halt (s : State)
  deriving DecidableEq, Repr

/-- The state with the context of the customer instruction changed. -/
def State.onM (s : State) (p : Nat) (f : Micro → Micro) : State := s.onU p fun x => { x with micro := x.micro.map f }

/-- A cause of a microword with the instruction in INFO (R125). -/
def State.cxFault (s : State) (p : Nat) (m : Micro) (sub : Nat) : State :=
  s.raise p 0x13 sub (s.u p).pc m.ins (w32 m.upc)

/-- The memory operation of a microword (R119). -/
def microJob (m : Micro) (w : MW) (addr rw : Word) : Job :=
  let (acc, size) : Acc × Nat :=
    match mwMem w with
    | 1 => (.load, 2)
    | 2 => (.load, 1)
    | 3 => (.load, 0)
    | 4 => (.store, 2)
    | 5 => (.store, 1)
    | 6 => (.store, 0)
    | _ => (.amoadd, 2)
  { acc := acc, va := addr, size := size, val := extend size false rw.toNat, ins := m.ins, len := 4, mc := true,
    after := .micro }

/-- The microword waits for the stores that SEV and FENCE wait for. What it has found of the unit's state before, and the
interrupt point of the microword before it, stand meanwhile. DESIGN CHOICE; log entry 58. -/
def State.microStall (s : State) (p : Nat) (w : MW) : Bool :=
  let side := mwSide w
  (decide (side = 3) && !(s.u p).stbuf.isEmpty)
    || (decide (side = 5) && (s.u p).lates.isEmpty && (!(s.u p).stbuf.isEmpty || s.storesOut p))

/-- Row 7 of R125: access to the special register, as MTS and MFS would find it. -/
def State.microSpr (s : State) (p : Nat) (m : Micro) (w : MW) (v : Word) : Option State :=
  let x := s.u p
  let n := mwSpr w
  let e : Enc := .w32 m.ins
  let chk := if mwSpw w && decide (n = 9) then estatCheck x.mode x.spr.estat v else 0
  if mwSpw w && (decide (n = 15) || decide (chk = 1)) then some (s.illop p e 1)
  else if (mwSpw w && (decide (chk = 2) || (decide (n ≠ 9) && decide (x.mode = 0) && sprShut n)))
      || (decide (mwWsrc w = 2) && decide (x.mode = 0) && sprHidden n) then some (s.cause p e 0x03)
  else none

/-- Rows 9 and 10 of R125: a fault that microcode signals, a failed store at a FENCE, the order of Shutter locks, OVF. -/
def State.microLate (s : State) (p : Nat) (m : Micro) (w : MW) (a : Word) (r : Arith) : Option State :=
  let x := s.u p
  let c := cOf p
  let u := s.logU p
  match mwSide w, x.lates with
  | 4, _ => some (s.cxFault p m (fld (mwLit w) 0 8))
  | 5, (b, code) :: t =>
    some ((s.onU p fun x => { x with lates := t }).raise p 0x0E 0 x.pc (w32 (t.length * 256 + code)) b)
  | side, _ =>
    match (if side = 6 ∧ u < 8 then (s.acquire c u (fld a 0 6) true).2 else none) with
    | some h => some (s.raise p 0x0D 0 x.pc (w32 (h * 256 + fld a 0 6)) 0)
    | none => if mwFlg w = 2 ∧ r.v = true ∧ x.spr.ove = true then some (s.cause p (.w32 m.ins) 0x0B) else none

/-- The side operation of a microword that has passed its checks (R119, R281). -/
def State.microSide (s : State) (p : Nat) (m : Micro) (w : MW) (a b : Word) : State :=
  let c := cOf p
  let u := s.logU p
  let n := fld a 0 6
  match mwSide w with
  | 1 => (s.onU p fun x => { x with prods := x.prods ++ [product true a b] }).onM p fun y => { y with mul := y.mul ++ [m.used + 3] }
  | 2 => (s.onU p fun x => { x with prods := x.prods ++ [product false a b] }).onM p fun y => { y with mul := y.mul ++ [m.used + 3] }
  | 3 => s.sendEvents c (a &&& 0x1FF)
  | 5 => s.onU p fun x => { x with hq := [] }
  | 6 =>
    if u < 8 then
      let t := (s.acquire c u n true).1.setReg (pgShutter c) 0x040 (w32 n)
      if !((s.c c).shmy u).pend && ((t.c c).shmy u).pend then t.onM p fun y => { y with req := true } else t
    else s
  | 7 => if u < 8 then (s.release c u n).setReg (pgShutter c) 0x044 (w32 n) else s
  | _ => s

/-- The value that WSRC selects, read at the start of the microword. -/
def State.microVal (s : State) (p : Nat) (m : Micro) (w : MW) (r : Word) : Word :=
  match mwWsrc w with
  | 1 => r
  | 2 => s.sprVal p (mwSpr w)
  | 3 => w32 s.T
  | 4 => m.hiT.getD (w32 (s.T / 2 ^ 32))
  | 5 => m.ins
  | 6 => (s.u p).pc
  | _ => (s.u p).pc + 4

/-- RW written with `v` (R118). -/
def State.microRw (s : State) (p : Nat) (m : Micro) (w : MW) (v : Word) : State :=
  let k := mwRw w
  if mwWsrc w = 0 then s
  else if k < 0x20 then s.onU p fun x => x.setG k v
  else
    match k with
    | 0x20 => s.onU p fun x => x.setG (cxRd m.ins) v
    | 0x28 => s.onM p fun y => { y with mc := v.extractLsb' 0 8 }
    | 0x29 => s
    | _ => s.onM p fun y => { y with t := Tab.set 0 y.t (k - 0x23) v }

/-- MC after MCNT (R117). -/
def microMc (w : MW) (mc : BitVec 8) (r : Word) : BitVec 8 :=
  match mwMcnt w with
  | 0 => mc
  | 1 => (mwLit w).extractLsb' 0 8
  | 2 => if mc = 0 then 0 else mc - 1
  | _ => r.extractLsb' 0 8

/-- ESTAT after FLG (R117). -/
def microFlags (w : MW) (e : Word) (r : Arith) : Word :=
  match mwFlg w with
  | 0 => e
  | 1 => setNZ e r.res
  | 2 => setNZCV e r
  | _ => insBit (setNZ e r.res) 2 r.c

/-- A FLUSH by SPW spills as MTS does; an uncorrectable word leaves the return stack as it was before (R56, R57). -/
def State.microFlush (s : State) (p : Nat) (old : Spr) : SRes :=
  match s.rsFlush p Config.returnStack with
  | .ecc t b =>
    .ecc (t.onU p fun y => y.setS fun r => { r with rs := old.rs, spilled := old.spilled, rsp := old.rsp }) b
  | r => r

/-- The special register of SPW written (R57). -/
def State.microSpw (s : State) (p : Nat) (w : MW) (v : Word) : SRes :=
  let old := (s.u p).spr
  if !mwSpw w then .ok s
  else
    let s := s.onU p fun x => x.setS fun r => r.put (mwSpr w) v
    if mwSpr w = 3 ∧ bit v 31 = true then s.microFlush p old else .ok s

/-- Products that this instruction issued and that are due are written, and those issued before it from its third
microword on (R91). -/
def State.microProds (s : State) (p : Nat) (m : Micro) : State :=
  let x := s.u p
  let mul := m.mul.drop (m.mul.length - x.prods.length)
  let due := (mul.filter fun t => decide (t ≤ m.used)).length
  let old := x.prods.length - mul.length
  let n := if 2 ≤ m.used ∨ due ≠ 0 then old + due else 0
  let s := (s.onU p fun x => { x with prods := x.prods.take n }.flushProds).onU p fun y => { y with prods := x.prods.drop n }
  s.onM p fun y => { y with mul := mul.drop due }

/-- The end of a microword: count, transfer, microstack, interrupt point (R122, R128). -/
def State.microEnd (s : State) (p : Nat) (m : Micro) (w : MW) (tr : Option Nat) (hi : Option Word) : MRes :=
  if mwSeq w = 5 then .halt ((s.onU p fun x => { x with micro := none }).seq p 4)
  else
    let s := s.onM p fun y =>
      { y with
        upc := m.after, target := tr, used := m.used + 1, hiT := hi, ipt := mwIpt w, op := none, got := none,
        fl := none, mdr := m.got.getD m.mdr,
        stack := if mwSeq w = 3 then (m.upc + 2) :: m.stack else if mwSeq w = 4 then m.stack.drop 1 else m.stack }
    if mwIpt w then .halt s else .go s

/-- What a microword reads at its start beside its operands. -/
def State.microRead (s : State) (p : Nat) (m : Micro) (w : MW) (r : Arith) (tr : Option Nat) : MicroOp :=
  { tr := tr, val := s.microVal p m w r.res, hi := if mwWsrc w = 3 then some (w32 (s.T / 2 ^ 32)) else none }

/-- The end of a microword that flushes the return stack, or its wait for the home bank. -/
def State.microSpilled (p : Nat) (m : Micro) (w : MW) (f : MicroFlush) : SRes → MRes
  | .ok t => t.microEnd p m w f.tr f.hi
  | .wait t =>
    .halt ((t.onM p fun y => { y with fl := some f, ipt := false }).onU p fun x => { x with stat := .rswait .micro })
  | r => .halt (State.rsFail p m.ins .micro r)

/-- Steps 3 and 4 of R121, after the memory operation: `o` was read at the start of the microword. -/
def State.microWrite (s : State) (p : Nat) (m : Micro) (w : MW) (a b : Word) (r : Arith) (o : MicroOp) : MRes :=
  let s := (s.microSide p m w a b).microRw p m w o.val
  let s := s.onM p fun y => { y with mc := if mwMcnt w = 0 then y.mc else microMc w m.mc r.res }
  let s := s.onU p fun x => x.setS fun q => { q with estat := microFlags w q.estat r }
  let old := (s.u p).spr
  State.microSpilled p m w { tr := o.tr, hi := o.hi, old := old } (s.microSpw p w r.res)

/-- The end of a microword's memory operation in the state `s`: it goes on once the operation has completed, to a cause of
row 9 or 10 or to its writes, and waits while the operation does. -/
def State.microThen (s : State) (p : Nat) (w : MW) (a b : Word) (r : Arith) (o : MicroOp) : MRes :=
  match (s.u p).micro with
  | some m =>
    if m.got.isSome then
      match s.microLate p m w a r with
      | some t => .halt t
      | none => s.microWrite p m w a b r o
    else .halt s
  | none => .halt s

/-- A microword that acts on the unit's own registers alone, and does not end the instruction: it can run beside an
outstanding memory operation, its own or an earlier one. -/
def mwOwn (w : MW) : Bool := decide (mwSeq w ≠ 5 ∧ mwSide w ≤ 2) && !(mwSpw w && decide (mwSpr w = 3))

/-- A microword that stalls while a memory operation of an earlier one is outstanding: it reads MDR (R119), or makes a memory
operation or something else that a cause of the outstanding one could not undo. DEDUCED; log entry 64. -/
def mwStalls (w : MW) : Bool :=
  decide (mwRa w = 0x27) || (decide (mwBsel w = 0) && decide (mwRb w = 0x27)) || decide (mwMem w ≠ 0) || !mwOwn w

/-- A microword that has passed rows 1 to 7 of R125. Its memory operation comes first (row 8); one that rows 9 and 10 then
refuse has not been made, unless it had to wait. The microword acts at once beside an operation that is outstanding, unless
rows 9 and 10 or its own acts bar that. -/
def State.microAct (s : State) (p : Nat) (m : Micro) (w : MW) (a b : Word) (r : Arith) (tr : Option Nat) : MRes :=
  let o := s.microRead p m w r tr
  let late := s.microLate p m w a r
  if mwMem w = 0 then
    match late with
    | some t => .halt t
    | none => s.microWrite p m w a b r o
  else
    let x := s.u p
    let t := (s.onM p fun y => { y with op := some o, ipt := false }).access p (microJob m w r.res (specVal x m (mwRw w)))
    match (t.u p).micro with
    | none => .halt t
    | some y =>
      match late with
      | some v => if y.got.isSome then .halt v else .halt t
      | none =>
      if y.got.isNone && mwOwn w then
        (t.onM p fun y => { y with op := none, undo := some { g := x.g, spr := x.spr, prods := x.prods } }).microWrite p m w a b
          r o
      else t.microThen p w a b r o

/-- One microword (R121, R125), or one repetition of a WAIT, whose parts act only when its condition holds (R122). -/
def State.microOne (s : State) (p : Nat) (m : Micro) : MRes :=
  let (w, unc, rd) := s.readWcs p (m.upc - 0x800)
  let s := if m.op.isSome || m.fl.isSome then s else rd
  let x := s.u p
  let a := opA x m w
  let b := opB x m w
  let r := microAlu (mwAlu w) a b (bit x.spr.estat 2)
  let c := s.microCond p m r
  let tr := transfer m w c
  match m.op, m.fl with
  | some o, _ => s.microThen p w a b r o
  | none, some f => State.microSpilled p m w f (s.microFlush p f.old)
  | none, none =>
  if m.undo.isSome && mwStalls w then .halt s
  else if unc then .halt (s.raise p 0x10 4 x.pc (w32 m.upc) 0)
  else if m.budget ≤ m.used then .halt (s.cxFault p m 5)
  else if badWord m.fmt w then .halt (s.cxFault p m 1)
  else if m.target.isSome && decide (mwSeq w ≠ 0) then .halt (s.cxFault p m 2)
  else if badTarget m w c then .halt (s.cxFault p m 4)
  else if badStack m w then .halt (s.cxFault p m 3)
  else if mwSeq w = 6 && !mwCond w c then .halt (s.onM p fun y => { y with used := m.used + 1, ipt := mwIpt w })
  else if s.microStall p w then .halt s
  else
    match s.microSpr p m w r.res with
    | some t => .halt t
    | none => s.microAct p m w a b r tr

/-- A microword that would raise a cause stalls while a memory operation of an earlier microword is outstanding: that
operation's own cause comes first (R125). DEDUCED; log entry 64. -/
def State.microStep (s : State) (p : Nat) (m : Micro) : MRes :=
  match s.microOne p m with
  | .halt t => if m.undo.isSome && (t.u p).micro.isNone then .halt s else .halt t
  | .go t => .go t

/-- Microwords until the instruction ends, waits, or reaches an interrupt point; at most `n`.
DESIGN CHOICE; log entry 31. -/
def State.microRun (s : State) (p : Nat) : Nat → State
  | 0 => s
  | n + 1 =>
    match (s.u p).micro with
    | none => s
    | some m =>
      match (s.microProds p m).microStep p (((s.microProds p m).u p).micro.getD m) with
      | .go t => t.microRun p n
      | .halt t => t

/-! ### Customer instructions -/

/-- The context in which the first microword runs (R79, R118, R127). MC starts at 0 (DESIGN CHOICE; log entry 58). -/
def microStart (x : UnitSt) (entry i : Word) : Micro :=
  { upc := 0x800 + fld entry 12 10, fmt := fld entry 27 2, target := none, t := [], mdr := 0, mc := 0, stack := [],
    used := 0, budget := 16 * 2 ^ fld entry 24 3, rs1 := x.gr (fld i 27 5), rs2 := x.gr (fld i 22 5), ins := i,
    hiT := none, op := none, undo := none, fl := none, got := none, req := false, ipt := false, mul := [] }

/-- The decode-table entry of a slot allows the mode (R80, R127). -/
def cxMode (entry : Word) (mode : Nat) : Bool :=
  match fld entry 29 2 with
  | 0 => true
  | 1 => notU mode
  | _ => onlyM mode

/-- The decode-table entry of the customer instruction at the program counter: as read when its first halfword entered the
fetch queue, or now, when it has just been fetched (R85, R130). -/
def State.cxEntry (s : State) (p slot : Nat) : Word :=
  match (s.u p).hq.find? (fun q => decide (q.a = (s.u p).pc)) with
  | some q => q.cx
  | none => s.dtOf p slot

/-- The start of a customer instruction: steps 4 and 6 of R76, then its microcode. -/
def State.cxStart (s : State) (p : Nat) (e : Enc) (slot : Nat) : State :=
  let entry := s.cxEntry p slot
  if !bit entry 31 || decide (fld entry 27 2 = 3) || decide (fld entry 29 2 = 2) then s.illop p e 2
  else if !cxMode entry (s.u p).mode then s.cause p e 0x03
  else
    let m := microStart (s.u p) entry e.info
    (s.onU p fun x => { x with micro := some m }).microRun p (m.budget + 1)

/-- A customer instruction that has begun goes on, also beside an outstanding memory operation, unless it stands at an
interrupt point with a cause to take. -/
def State.cxGo (s : State) (p : Nat) (m : Micro) : State :=
  if s.unitUp p && !(s.u p).locked && (decide ((s.u p).stat = .run) || m.undo.isSome) && !(m.ipt && s.entryPoint p) then
    s.microRun p (m.budget + 1) else s

/-- A customer instruction (R127). -/
def execCustomerInstruction (p : UnitIx) (f : CxF) (s : State) : Out :=
  let e := encCx f
  .next (match (s.u p.val).micro with
    | some m => if m.ins = e.info then s.cxGo p.val m else s
    | none => if s.ready p.val then s.fetched p.val e fun t => t.cxStart p.val e f.slot.toNat else s)

end Sys2Proof.Machine
end

