-- ==== Sys2Proof/Machine/Reel.lean ====
section
/-! DEFINITION. The Reel instructions (R167 to R174) and the events of pads, samplers and the synchronous start. -/

namespace Sys2Proof.Machine

/-- NOP, and the words that no operation claims, which stop the channel with ILLINS (R166, R167). -/
def execReelNop (r : ReelIx) (k : SlotIx) (w : Word) (s : State) : Out :=
  .next (s.reel r k w fun _ s => .done s)

/-- LDI: D takes the immediate, zero- or sign-extended. -/
def execLdi (r : ReelIx) (k : SlotIx) (f : RI) (s : State) : Out :=
  .next (s.reel r k (encRi 0x01 f) fun _ s =>
    rdone (s.setCreg r k f.d.toNat (if f.mode = 1 then f.imm.signExtend 32 else f.imm.zeroExtend 32) false))

/-- LDHI: D[31:16] = IMM; the rest of D, and its poison, stay. -/
def execLdhi (r : ReelIx) (k : SlotIx) (f : RI) (s : State) : Out :=
  .next (s.reel r k (encRi 0x02 f) fun _ s =>
    let d := f.d.toNat
    rdone (s.setCreg r k d (f.imm ++ (s.creg r k d).extractLsb' 0 16) (s.poisoned r k d)))

/-- MOV: D = S, with the poison of S. -/
def execReelMov (r : ReelIx) (k : SlotIx) (f : RI) (s : State) : Out :=
  .next (s.reel r k (encRi 0x03 f) fun _ s =>
    rdone (s.setCreg r k f.d.toNat (s.creg r k f.s.toNat) (s.poisoned r k f.s.toNat)))

/-- The second operand of ALUA and ALUB, and whether it is poisoned (R166). -/
def State.ropnd (s : State) (r k : Nat) (f : RI) : Word × Bool :=
  if f.pin.getLsbD 1 then (f.imm.zeroExtend 32, false) else (s.creg r k f.s.toNat, s.poisoned r k f.s.toNat)

/-- ALUA: D = D ADD, SUB, AND or OR the operand. -/
def execAlua (r : ReelIx) (k : SlotIx) (f : RI) (s : State) : Out :=
  .next (s.reel r k (encRi 0x04 f) fun _ s =>
    let d := f.d.toNat
    let a := s.creg r k d
    let (b, bad) := s.ropnd r k f
    let v := match f.mode.toNat with
      | 0 => a + b
      | 1 => a - b
      | 2 => a &&& b
      | _ => a ||| b
    rdone (s.setCreg r k d v (bad || s.poisoned r k d)))

/-- ALUB: D = D XOR, SHL, SHR or ROR by the operand. -/
def execAlub (r : ReelIx) (k : SlotIx) (f : RI) (s : State) : Out :=
  .next (s.reel r k (encRi 0x05 f) fun _ s =>
    let d := f.d.toNat
    let a := s.creg r k d
    let (b, bad) := s.ropnd r k f
    let n := fld b 0 8
    let v := match f.mode.toNat with
      | 0 => a ^^^ b
      | 1 => shift .shl a n
      | 2 => shift .shr a n
      | _ => shift .ror a n
    rdone (s.setCreg r k d v (bad || s.poisoned r k d)))

/-- SAMPLE: takes SBIT once SRDY is set. -/
def execSample (r : ReelIx) (k : SlotIx) (f : RI) (s : State) : Out :=
  .next (s.reel r k (encRi 0x06 f) fun _ s =>
    let x := s.chan r k
    if x.smp.srdy then
      .done (s.setChan r k
        { x with smp := { x.smp with srdy := false, stuffErr := false }, lbit := x.smp.sbit, bc := x.bc + 1,
                 sr := (if f.mode = 0 then shiftIn (s.sdir r k) x.sr x.smp.sbit else x.sr) })
    else .wait s)

/-- SHIN: the visible level of a pin is shifted into SR. -/
def execShin (r : ReelIx) (k : SlotIx) (f : RI) (s : State) : Out :=
  .next (s.reel r k (encRi 0x07 f) fun _ s =>
    let b := s.pinLvl r k f.pin.toNat
    .done (s.onCh r k fun x => { x with sr := shiftIn (s.sdir r k) x.sr b, lbit := b, bc := x.bc + 1 }))

/-- SHOUT: a bit of SR goes to a pin, at once or armed. -/
def execShout (r : ReelIx) (k : SlotIx) (f : RI) (s : State) : Out :=
  .next (s.reel r k (encRi 0x08 f) fun _ s =>
    let j := f.pin.toNat
    let x := s.chan r k
    let b := bitOut (s.sdir r k) x.sr
    if f.mode = 1 ∧ (Tab.get none x.aout j).isSome then .wait s
    else
      let t := s.onCh r k fun x => { x with sr := shiftIn (s.sdir r k) x.sr false, lbit := b, bc := x.bc + 1 }
      .done (if f.mode = 1 then t.onCh r k fun x => { x with aout := Tab.set none x.aout j (some b) }
             else t.setPin r k j false b))

/-- DRIVE: a pin's out, at once or armed. -/
def execDrive (r : ReelIx) (k : SlotIx) (f : RI) (s : State) : Out :=
  .next (s.reel r k (encRi 0x09 f) fun _ s =>
    let j := f.pin.toNat
    let b := f.imm.getLsbD 0
    if f.mode = 1 then
      (if (Tab.get none (s.chan r k).aout j).isSome then .wait s
       else .done (s.onCh r k fun x => { x with aout := Tab.set none x.aout j (some b) }))
    else .done (s.setPin r k j false b))

/-- OE: a pin's output enable, at once or armed. -/
def execOe (r : ReelIx) (k : SlotIx) (f : RI) (s : State) : Out :=
  .next (s.reel r k (encRi 0x0A f) fun _ s =>
    let j := f.pin.toNat
    let b := f.imm.getLsbD 0
    if f.mode = 1 then
      (if (Tab.get none (s.chan r k).aoe j).isSome then .wait s
       else .done (s.onCh r k fun x => { x with aoe := Tab.set none x.aoe j (some b) }))
    else .done (s.setPin r k j true b))

/-- WAITPIN: a level, or an edge latched since the first issue (R171). -/
def execWaitpin (r : ReelIx) (k : SlotIx) (f : RI) (s : State) : Out :=
  .next (s.reel r k (encRi 0x0B f) fun h s =>
    let j := f.pin.toNat
    if f.mode.toNat < 2 then
      (if s.pinLvl r k j = decide (f.mode = 1) then .done s else .wait s)
    else
      let i := 2 * j + (f.mode.toNat - 2)
      let x := s.chan r k
      let now := Tab.get (0, 0) x.seen i
      let l := if !h.issued then (if now.1 = h.cyc + 1 then some now.2 else none) else Tab.get none x.edges i
      match l with
      | some t => .done (s.onCh r k fun x => { x with edges := Tab.set none x.edges i none, edgeTs := t })
      | none => .wait (s.onCh r k fun x => { x with edges := Tab.set none x.edges i none }))

/-- WAITTIME: Reel cycles from the first issue, or a time target, compared with T of the fabric cycle of the command, as
TSTAMP and HSYNC of MODE 2 take it (R172; DESIGN CHOICE, log entry 66). -/
def execWaittime (r : ReelIx) (k : SlotIx) (f : RI) (s : State) : Out :=
  .next (s.reel r k (encRi 0x0C f) fun h s =>
    let v := s.creg r k f.s.toNat
    let t := w32 s.T
    match f.mode.toNat with
    | 0 => if f.imm.toNat ≤ s.rcyc - h.cyc then .done s else .wait s
    | 1 => if v.toNat ≤ s.rcyc - h.cyc then .done s else .wait s
    | _ =>
      if (t - v).toNat < 2 ^ 31 then .done (if !h.issued && decide (t ≠ v) then s.chFlag r k 7 else s) else .wait s)

/-- WAITBIT: the next boundary or sample after the first-issue cycle. -/
def execWaitbit (r : ReelIx) (k : SlotIx) (f : RI) (s : State) : Out :=
  .next (s.reel r k (encRi 0x0D f) fun h s => if (if f.mode = 0 then h.bnd else h.smp) then .done s else .wait s)

/-- The condition of JMP (R169). -/
def State.reelCond (s : State) (r k : Nat) (c : Nat) (v : Word) : Bool :=
  let x := s.chan r k
  let o := s.owner r k
  let tx := (s.txSeen r o).isEmpty && decide ((s.qcyc r).txOut ≠ some o)
  match c with
  | 0x00 => true
  | 0x01 | 0x02 | 0x03 | 0x04 => s.pinLvl r k (c - 1)
  | 0x05 | 0x06 | 0x07 | 0x08 => !s.pinLvl r k (c - 5)
  | 0x09 => x.smp.sbit
  | 0x0A => !x.smp.sbit
  | 0x0B => decide (v = 0)
  | 0x0C => decide (v ≠ 0)
  | 0x0D => decide (x.bc = v.truncate 16)
  | 0x0E => decide (x.bc ≠ v.truncate 16)
  | 0x0F => !tx
  | 0x10 => tx
  | 0x11 => !s.rxFull r k
  | 0x12 => s.rxFull r k
  | 0x13 => bit x.sr 0
  | 0x14 => !bit x.sr 0
  | 0x15 => x.smp.stuffErr
  | _ => x.smp.bitErr

/-- JMP: COND is the fields MODE and D together (R166). -/
def execJmp (r : ReelIx) (k : SlotIx) (f : RI) (s : State) : Out :=
  .next (s.reel r k (encRi 0x0E f) fun _ s =>
    if s.reelCond r k (f.mode.toNat * 8 + f.d.toNat) (s.creg r k f.s.toNat) then .jump s f.imm.toNat else .done s)

/-- DJNZ: D − 1, and a jump when it is not zero. -/
def execDjnz (r : ReelIx) (k : SlotIx) (f : RI) (s : State) : Out :=
  .next (s.reel r k (encRi 0x0F f) fun _ s =>
    let d := f.d.toNat
    match s.setCreg r k d (s.creg r k d - 1) (s.poisoned r k d) with
    | some t => if t.creg r k d ≠ 0 then .jump t f.imm.toNat else .done t
    | none => .err 3)

/-- PUSH: S to the RX queue; MODE 1 then clears SR and BC (R184). -/
def execReelPush (r : ReelIx) (k : SlotIx) (f : RI) (s : State) : Out :=
  .next (s.reel r k (encRi 0x10 f) fun _ s =>
    let t := s.pushRx r k (s.creg r k f.s.toNat) (s.poisoned r k f.s.toNat)
    .done (if f.mode = 1 then t.onCh r k Chan.clearSr else t))

/-- PULL: the TX queue head, the idle pattern, or a wait in stall mode (R184). -/
def execPull (r : ReelIx) (k : SlotIx) (f : RI) (s : State) : Out :=
  .next (s.reel r k (encRi 0x11 f) fun _ s =>
    let (w, t) := s.pullTx r k
    let fin := fun (v : Word) (t : State) =>
      rdone ((t.setCreg r k f.d.toNat v false).map fun t =>
        if f.mode = 1 then t.onCh r k Chan.clearBc else t)
    match w with
    | some v => fin v t
    | none =>
      if t.rbit (pgReel r) (offCfg k) 30 then .wait t
      else fin (t.reg (pgReel r) (0x700 + 4 * k.val)) (t.chFlag r k 2))

/-- CRC: LBIT, or low bits of S, folded into D (R173). -/
def execCrc (r : ReelIx) (k : SlotIx) (f : RI) (s : State) : Out :=
  .next (s.reel r k (encRi 0x12 f) fun _ s =>
    let n := f.imm.toNat % 4
    let p := s.reg (pgReel r) (0x050 + 4 * n)
    let w := s.rfld (pgReel r) 0x060 (8 * n) 5 + 1
    let d := f.d.toNat
    let v := s.creg r k f.s.toNat
    let bits := if f.mode = 0 then [(s.chan r k).lbit]
      else (List.range (f.imm.toNat / 16 % 16 + 1)).reverse.map fun i => bit v i
    rdone (s.setCreg r k d (bits.foldl (fun a b => reelCrcBit w p a b) (s.creg r k d)) (s.poisoned r k d)))

/-- IRQ: CHIRQk.CODE and the channel's interrupt flag. -/
def execIrq (r : ReelIx) (k : SlotIx) (f : RI) (s : State) : Out :=
  .next (s.reel r k (encRi 0x13 f) fun _ s =>
    .done ((s.setReg (pgReel r) (0x140 + 4 * k.val) (w32 (f.imm.toNat % 256))).flag (pgReel r) k))

/-- TSTAMP: an edge, current or hard-sync timestamp. -/
def execTstamp (r : ReelIx) (k : SlotIx) (f : RI) (s : State) : Out :=
  .next (s.reel r k (encRi 0x14 f) fun _ s =>
    let x := s.chan r k
    let v : Word := match f.mode.toNat with
      | 0 => x.edgeTs.extractLsb' 0 32
      | 1 => x.edgeTs.extractLsb' 32 32
      | 2 => w32 s.T
      | _ => x.smp.hsTs.extractLsb' 0 32
    rdone (s.setCreg r k f.d.toNat v false))

/-- A completion that a stop by CFGBAD overrides. -/
def orBad (t : State) (r k : Nat) : RRes := if t.running r k then .done t else .err 3

/-- SETBT: another bit-timing set from the next boundary or the sample point (R167, R174). The boundary that R174 names
is q' × (PERIOD' − SP') cycles after S0, so that BCYC reads q' × SP' at S0; a later SETBT replaces one that has not
acted (DEDUCED; log entry 40). A boundary that falls in the executing cycle counts as past (DESIGN CHOICE; log entry 66). -/
def execSetbt (r : ReelIx) (k : SlotIx) (f : RI) (s : State) : Out :=
  .next (s.reel r k (encRi 0x15 f) fun _ s =>
    let i := f.mode.toNat % 2
    let x := (s.chan r k).smp
    if !x.on then orBad ((s.onSmp r k fun x => { x with setB := none, setS := none }).activate r k i) r k
    else if f.mode.toNat < 2 then .done (s.onSmp r k fun x => { x with setB := some i, setS := none })
    else if !x.sampled then .done (s.onSmp r k fun x => { x with setB := none, setS := some i })
    else
      let t := (s.onSmp r k fun x => { x with setB := none, setS := none }).activate r k i
      if t.running r k then
        let n := (t.chan r k).smp
        let b := n.bt.q * n.bt.sp + (s.rcyc - n.s0)
        if n.bt.len ≤ b then .done ((t.onSmp r k fun x => { x with bcyc := n.bt.len - 1 }).chFlag r k 7)
        else .done (t.onSmp r k fun x => { x with bcyc := b })
      else .err 3)

/-- HSYNC: arms, performs or stops hard synchronisation (R162). The set is checked when it arms and again at the edge
(DESIGN CHOICE; log entry 66). -/
def execHsync (r : ReelIx) (k : SlotIx) (f : RI) (s : State) : Out :=
  .next (s.reel r k (encRi 0x16 f) fun _ s =>
    match f.mode.toNat with
    | 2 => orBad (s.hardSync r k 0 (BitVec.ofNat 64 s.T)) r k
    | 3 => .done (s.onSmp r k fun x => { x with on := false, arm := 0, chk := [] })
    | m =>
      if (s.btOf r k (fld (s.reg (pgReel r) (offSmp k)) 15 1)).ok then
        .done (s.onSmp r k fun x => { x with arm := m + 1 })
      else .err 3)

/-- STOP: the channel stops after it (R156). -/
def execStop (r : ReelIx) (k : SlotIx) (f : RI) (s : State) : Out :=
  .next (s.reel r k (encRi 0x17 f) fun _ s => .stop s)

/-- A pad transition becomes visible to the Reels of its cluster (R158). -/
def execPadEdge (pad : Fin 512) (level : Bool) (s : State) : Out := .next (s.padEdge pad level)

/-- The sample of a bit, when BCYC has reached it (R161). -/
def execSamplePoint (r : ReelIx) (k : SlotIx) (s : State) : Out :=
  .next (if s.reelUp r then (s.samplePoint r k).qev r else s)

/-- The boundary of a bit, when BCYC has reached its last cycle (R161). -/
def execBitBoundary (r : ReelIx) (k : SlotIx) (s : State) : Out :=
  .next (if s.reelUp r then (s.bitBoundary r k).qev r else s)

/-- The start cycle of a region's armed synchronous start (R193). -/
def execStartCycle (r : RegionIx) (s : State) : Out :=
  .next (if s.regUp r && s.rbit (pgRegion r) 0x108 31 && decide (s.ssTarget r ≤ s.reelT) then s.startCycle r false else s)

end Sys2Proof.Machine
end

