-- ==== Sys2Proof/Machine/Registers.lean ====
section
/-! DEFINITION. The commands that are one access to a register, each with its page and offset. -/

namespace Sys2Proof.Machine

/-! ### Control store (R129) -/

/-- CSDATA3_WRITE: the microword at CSIDX is written, or IDXERR set (R129). -/
def execCsdata3Write (m : Master) (c : ClusterIx) (v : Word) (s : State) : Out :=
  .next (s.put m (pgCommon c.val) 0x190 v false none)

/-- CSDATA0_READ: the microword at CSIDX is latched (R129). -/
def execCsdata0Read (m : Master) (c : ClusterIx) (s : State) : Out := .next (s.answer m (pgCommon c.val) 0x184)

/-- CSDATA3_READ: the last word of the latch, and CSIDX advances (R129). -/
def execCsdata3Read (m : Master) (c : ClusterIx) (s : State) : Out := .next (s.answer m (pgCommon c.val) 0x190)

/-- CSCTL_READ: CORR is cleared by the read (R129). -/
def execCsctlRead (m : Master) (c : ClusterIx) (s : State) : Out := .next (s.answer m (pgCommon c.val) 0x194)

/-! ### Reel pages (R155, R176, R183, R184, R192) -/

/-- CHANNEL_START: a write of CHCFGk with RUN = 1 (R153). -/
def execChannelStart (m : Master) (n : ReelIx) (k : SlotIx) (v : Word) (s : State) : Out :=
  .next (s.put m (pgReel n.val) (0x080 + 4 * k.val) v false none)

/-- CHANNEL_STOP: a write of CHCFGk with RUN = 0 (R156). -/
def execChannelStop (m : Master) (n : ReelIx) (k : SlotIx) (v : Word) (s : State) : Out :=
  .next (s.put m (pgReel n.val) (0x080 + 4 * k.val) v false none)

/-- CRST: a write of CHCFGk with CRST = 1 (R154). -/
def execCrst (m : Master) (n : ReelIx) (k : SlotIx) (v : Word) (s : State) : Out :=
  .next (s.put m (pgReel n.val) (0x080 + 4 * k.val) v false none)

/-- SMPCFG_WRITE (R160). -/
def execSmpcfgWrite (m : Master) (n : ReelIx) (k : SlotIx) (v : Word) (s : State) : Out :=
  .next (s.put m (pgReel n.val) (0x1C0 + 4 * k.val) v false none)

/-- TXD_WRITE (R184). -/
def execTxdWrite (m : Master) (n : ReelIx) (k : SlotIx) (v : Word) (s : State) : Out :=
  .next (s.put m (pgReel n.val) (0x600 + 4 * k.val) v false none)

/-- RXD_READ (R184). -/
def execRxdRead (m : Master) (n : ReelIx) (k : SlotIx) (s : State) : Out :=
  .next (s.answer m (pgReel n.val) (0x640 + 4 * k.val))

/-- RXDROP_READ (R183). -/
def execRxdropRead (m : Master) (n : ReelIx) (k : SlotIx) (s : State) : Out :=
  .next (s.answer m (pgReel n.val) (0x6C0 + 4 * k.val))

/-- INJECT (R189). -/
def execInject (m : Master) (n : ReelIx) (k : SlotIx) (v : Word) (s : State) : Out :=
  .next (s.put m (pgReel n.val) (0x780 + 4 * k.val) v false none)

/-- QJOIN_WRITE (R187). -/
def execQjoinWrite (m : Master) (n : ReelIx) (v : Word) (s : State) : Out :=
  .next (s.put m (pgReel n.val) 0x7C4 v false none)

/-- PROGRAM_WORD_WRITE (R175). -/
def execProgramWordWrite (m : Master) (n : ReelIx) (w : Fin 512) (v : Word) (s : State) : Out :=
  .next (s.put m (pgReel n.val) (0x800 + 4 * w.val) v false none)

/-- PROGRAM_WORD_READ (R175). -/
def execProgramWordRead (m : Master) (n : ReelIx) (w : Fin 512) (s : State) : Out :=
  .next (s.answer m (pgReel n.val) (0x800 + 4 * w.val))

/-- SSCTL_ARM (R193). -/
def execSsctlArm (m : Master) (r : RegionIx) (v : Word) (s : State) : Out :=
  .next (s.put m (pgRegion r.val) 0x108 v false none)

/-! ### Frame path pages (R197, R205, R223, R241) -/

/-- FPCFG_WRITE (R197). -/
def execFpcfgWrite (m : Master) (port : Fin 16) (v : Word) (s : State) : Out :=
  .next (s.put m (pgPort port.val) 0x040 v false none)

/-- TABLE_READ: TCMD.OP = 1 (R205). -/
def execTableRead (m : Master) (stage : Fin 10) (s : State) : Out :=
  .next (s.put m (pgStage stage.val) 0x044 1 false none)

/-- TABLE_WRITE: TCMD.OP = 2 (R206). -/
def execTableWrite (m : Master) (stage : Fin 10) (s : State) : Out :=
  .next (s.put m (pgStage stage.val) 0x044 2 false none)

/-- EGTAG_READ: the head timestamp is popped (R223). -/
def execEgtagRead (m : Master) (port : Fin 16) (s : State) : Out := .next (s.answer m 0x029 (0x040 + 16 * port.val))

/-- FXSTG_READ: the counters of stage s = `stage` + 1 (R241). -/
def execFxstgRead (m : Master) (stage : Fin 8) (s : State) : Out := .next (s.answer m 0x025 (0x100 + 4 * stage.val))

/-! ### Time pages (R244 to R262) -/

/-- STEP: a write of TBCTL with STEP = 1 (R245). -/
def execStep (m : Master) (v : Word) (s : State) : Out := .next (s.put m pgTime 0x040 v false none)

/-- SLEW: a write of TBCTL with SLEW = 1 (R245). -/
def execSlew (m : Master) (v : Word) (s : State) : Out := .next (s.put m pgTime 0x040 v false none)

/-- TBINC_WRITE (R244). -/
def execTbincWrite (m : Master) (v : Word) (s : State) : Out := .next (s.put m pgTime 0x044 v false none)

/-- TBNOWL_READ (R246). -/
def execTbnowlRead (m : Master) (s : State) : Out := .next (s.answer m pgTime 0x060)

/-- TPCAPL_READ (R251). -/
def execTpcaplRead (m : Master) (n : Fin 2) (s : State) : Out := .next (s.answer m pgTime (0x094 + 32 * n.val))

/-- RSCTL_CHANGE (R256). -/
def execRsctlChange (m : Master) (r : RegionIx) (v : Word) (s : State) : Out :=
  .next (s.put m (pgRegion r.val) 0x200 v false none)

/-- CS_ARM (R260). -/
def execCsArm (m : Master) (v : Word) (s : State) : Out := .next (s.put m pgSheet 0x048 v false none)

/-- CSSHLO_READ (R261). -/
def execCsshloRead (m : Master) (s : State) : Out := .next (s.answer m pgSheet 0x05C)

/-! ### Banks, DMA, Shutter and march pages (R273 to R285) -/

/-- BKSTAT_READ (R273). -/
def execBkstatRead (m : Master) (c : ClusterIx) (b : Fin 8) (s : State) : Out :=
  .next (s.answer m (pgBanks c.val) (0x040 + 4 * b.val))

/-- BKCOLL_READ (R273). -/
def execBkcollRead (m : Master) (c : ClusterIx) (b : Fin 8) (s : State) : Out :=
  .next (s.answer m (pgBanks c.val) (0x060 + 4 * b.val))

/-- BKUNC_READ (R273). -/
def execBkuncRead (m : Master) (c : ClusterIx) (b : Fin 8) (s : State) : Out :=
  .next (s.answer m (pgBanks c.val) (0x080 + 4 * b.val))

/-- BKCONF_READ of master `n` (R273). -/
def execBkconfRead (m : Master) (c : ClusterIx) (b : Fin 8) (n : Fin 20) (s : State) : Out :=
  .next (s.answer m (pgBanks c.val) (0x400 + 80 * b.val + 4 * n.val))

/-- DMA_START: a write of DCTLn with RUN = 1 (R275). -/
def execDmaStart (m : Master) (c : ClusterIx) (n : Fin 8) (v : Word) (s : State) : Out :=
  .next (s.put m (pgDma c.val) (0x10C + 32 * n.val) v false none)

/-- DMA_STOP: a write of DCTLn with RUN = 0 (R275). -/
def execDmaStop (m : Master) (c : ClusterIx) (n : Fin 8) (v : Word) (s : State) : Out :=
  .next (s.put m (pgDma c.val) (0x10C + 32 * n.val) v false none)

/-- SHACQ (R277). -/
def execShacq (m : Master) (c : ClusterIx) (n : BitVec 6) (s : State) : Out :=
  .next (s.put m (pgShutter c.val) 0x040 (n.zeroExtend 32) false none)

/-- SHREL (R277). -/
def execShrel (m : Master) (c : ClusterIx) (n : BitVec 6) (s : State) : Out :=
  .next (s.put m (pgShutter c.val) 0x044 (n.zeroExtend 32) false none)

/-- SHCAN (R277). -/
def execShcan (m : Master) (c : ClusterIx) (s : State) : Out := .next (s.put m (pgShutter c.val) 0x048 1 false none)

/-- SHFREL_FORCE (R279). -/
def execShfrelForce (m : Master) (c : ClusterIx) (n : BitVec 6) (s : State) : Out :=
  .next (s.put m (pgShutter c.val) 0x058 (0x80000000 ||| n.zeroExtend 32) false none)

/-- MTCTL_GO: a write of MTCTL with GO = 1 (R285). -/
def execMtctlGo (m : Master) (c : ClusterIx) (v : Word) (s : State) : Out :=
  .next (s.put m (pgMarch c.val) 0x040 v false none)

/-- MARCH_TEST_STOP: a write of MTCTL with STOP = 1 (R285). -/
def execMarchTestStop (m : Master) (c : ClusterIx) (v : Word) (s : State) : Out :=
  .next (s.put m (pgMarch c.val) 0x040 v false none)

/-- MTSTAT_READ (R284). -/
def execMtstatRead (m : Master) (c : ClusterIx) (s : State) : Out := .next (s.answer m (pgMarch c.val) 0x044)

/-- MTCNT_READ (R284). -/
def execMtcntRead (m : Master) (c : ClusterIx) (s : State) : Out := .next (s.answer m (pgMarch c.val) 0x04C)

/-! ### Negative page (R292, R293) -/

/-- UFORCE: a write of NGCTL with UFORCE = 1 (R297). -/
def execUforce (m : Master) (c : ClusterIx) (v : Word) (s : State) : Out :=
  .next (s.put m (pgNeg c.val) 0x040 v false none)

/-- RFORCE: a write of NGCTL with RFORCE = 1 (R301). -/
def execRforce (m : Master) (c : ClusterIx) (v : Word) (s : State) : Out :=
  .next (s.put m (pgNeg c.val) 0x040 v false none)

/-- NGRET_WRITE (R294). -/
def execNgretWrite (m : Master) (c : ClusterIx) (e : Fin 5) (k : SlotIx) (v : Word) (s : State) : Out :=
  .next (s.put m (pgNeg c.val) (0x200 + 64 * e.val + 4 * k.val) v false none)

/-! ### Unit pages (R307, R312, R313, R353) -/

/-- HWB_WRITE of word `w` of block register `n` (R308). -/
def execHwbWrite (m : Master) (g : UnitIx) (n : Fin 8) (w : Fin 4) (v : Word) (s : State) : Out :=
  .next (s.put m (pgUnit g.val) (0x400 + 16 * n.val + 4 * w.val) v false none)

/-- INVALL (R313). -/
def execInvall (m : Master) (g : UnitIx) (s : State) : Out :=
  .next (s.put m (pgUnit g.val) 0x488 0x80000000 false none)

/-- INVVA (R313). -/
def execInvva (m : Master) (g : UnitIx) (s : State) : Out :=
  .next (s.put m (pgUnit g.val) 0x488 0x40000000 false none)

/-- TLBLK_WRITE: a write of TLBLKnVA (R312). -/
def execTlblkWrite (m : Master) (g : UnitIx) (n : Fin 4) (v : Word) (s : State) : Out :=
  .next (s.put m (pgUnit g.val) (0x4C0 + 16 * n.val) v false none)

/-- UWDKICK (R354). -/
def execUwdkick (m : Master) (g : UnitIx) (v : Word) (s : State) : Out :=
  .next (s.put m (pgUnit g.val) 0x2D0 v false none)

/-- UWDCTL_WRITE (R353). -/
def execUwdctlWrite (m : Master) (g : UnitIx) (v : Word) (s : State) : Out :=
  .next (s.put m (pgUnit g.val) 0x2C0 v false none)

/-! ### Safelight page (R342 to R360) -/

/-- SWDKICK (R355). -/
def execSwdkick (m : Master) (v : Word) (s : State) : Out := .next (s.put m pgSafe 0x28C v false none)

/-- SWDCTL_WRITE (R355). -/
def execSwdctlWrite (m : Master) (v : Word) (s : State) : Out := .next (s.put m pgSafe 0x280 v false none)

/-- SWDBAD_READ (R355). -/
def execSwdbadRead (m : Master) (s : State) : Out := .next (s.answer m pgSafe 0x290)

/-- SAFESET: a write of SLCTL that sets the safe state (R345). -/
def execSafeset (m : Master) (v : Word) (s : State) : Out := .next (s.put m pgSafe 0x044 v false none)

/-- SAFECLR: a write of SLCTL that clears it (R345). -/
def execSafeclr (m : Master) (v : Word) (s : State) : Out := .next (s.put m pgSafe 0x044 v false none)

/-- SLSTAT_READ (R344). -/
def execSlstatRead (m : Master) (s : State) : Out := .next (s.answer m pgSafe 0x040)

/-- LOGSTAT_READ (R351). -/
def execLogstatRead (m : Master) (s : State) : Out := .next (s.answer m pgSafe 0x254)

/-- WKSW (R357). -/
def execWksw (m : Master) (v : Word) (s : State) : Out := .next (s.put m pgSafe 0x440 v false none)

/-- LOAD of the key store (R352). -/
def execLoad (m : Master) (v : Word) (s : State) : Out := .next (s.put m pgSafe 0x340 v false none)

/-- CLEAR of the key store (R352). -/
def execClear (m : Master) (v : Word) (s : State) : Out := .next (s.put m pgSafe 0x340 v false none)

/-- ZEROALL of the key store (R352). -/
def execZeroall (m : Master) (v : Word) (s : State) : Out := .next (s.put m pgSafe 0x340 v false none)

/-- MAC of the key store (R352). -/
def execMac (m : Master) (v : Word) (s : State) : Out := .next (s.put m pgSafe 0x340 v false none)

/-- KSCMD_UNKNOWN (R352). -/
def execKscmdUnknown (m : Master) (v : Word) (s : State) : Out := .next (s.put m pgSafe 0x340 v false none)

/-- BEGIN of an update (R360). -/
def execBegin (m : Master) (timeout : Bool) (s : State) : Out := .next (s.put m pgSafe 0x500 1 timeout none)

/-- ERASE (R360). -/
def execErase (m : Master) (timeout : Bool) (s : State) : Out := .next (s.put m pgSafe 0x500 2 timeout none)

/-- PROG (R360). -/
def execProg (m : Master) (timeout : Bool) (bad : Option Nat) (s : State) : Out := .next (s.put m pgSafe 0x500 3 timeout bad)

/-- FINISH (R360). -/
def execFinish (m : Master) (timeout : Bool) (bad : Option Nat) (s : State) : Out :=
  .next (s.put m pgSafe 0x500 4 timeout bad)

/-- ABORT (R360). -/
def execAbort (m : Master) (s : State) : Out := .next (s.put m pgSafe 0x500 5 false none)

/-- UPCMD_UNKNOWN (R360). -/
def execUpcmdUnknown (m : Master) (cmd : BitVec 3) (s : State) : Out :=
  .next (s.put m pgSafe 0x500 (cmd.zeroExtend 32) false none)

/-! ### Developer and recovery pages (R331, R338) -/

/-- CONFIRM (R332). -/
def execConfirm (m : Master) (bad : Option Nat) (s : State) : Out := .next (s.put m pgDev 0x060 1 false bad)

/-- REVOKE (R332). -/
def execRevoke (m : Master) (bad : Option Nat) (s : State) : Out := .next (s.put m pgDev 0x060 2 false bad)

/-- LIFEADV (R332). -/
def execLifeadv (m : Master) (bad : Option Nat) (s : State) : Out := .next (s.put m pgDev 0x060 3 false bad)

/-- DVCMD_UNKNOWN (R332). -/
def execDvcmdUnknown (m : Master) (cmd : Byte) (s : State) : Out :=
  .next (s.put m pgDev 0x060 (cmd.zeroExtend 32) false none)

/-- RCDATA_WRITE (R338). -/
def execRcdataWrite (m : Master) (v : Word) (s : State) : Out := .next (s.put m pgRec 0x044 v false none)

/-- BOOT (R339). -/
def execBoot (m : Master) (s : State) : Out := .next (s.put m pgRec 0x048 1 false none)

/-- KEYPROG (R339). -/
def execKeyprog (m : Master) (bad : Option Nat) (s : State) : Out := .next (s.put m pgRec 0x048 2 false bad)

/-- RCCMD_UNKNOWN (R339). -/
def execRccmdUnknown (m : Master) (cmd : Byte) (s : State) : Out :=
  .next (s.put m pgRec 0x048 (cmd.zeroExtend 32) false none)

/-! ### Loupe page (R366) -/

/-- LPSESS_READ (R366). -/
def execLpsessRead (m : Master) (s : State) : Out := .next (s.answer m pgLoupe 0x040)

/-- LPERR_READ (R366). -/
def execLperrRead (m : Master) (s : State) : Out := .next (s.answer m pgLoupe 0x114)

/-! ### Power and clock pages (R384, R388, R392, R397) -/

/-- PWCTL_GO: a write of PWCTL with GO = 1 (R389). -/
def execPwctlGo (m : Master) (v : Word) (s : State) : Out := .next (s.put m pgPower 0x044 v false none)

/-- PWREL (R392). -/
def execPwrel (m : Master) (v : Word) (s : State) : Out := .next (s.put m pgPower 0x050 v false none)

/-- CKUDIV_WRITE (R384). -/
def execCkudivWrite (m : Master) (v : Word) (s : State) : Out := .next (s.put m pgClocks 0x040 v false none)

/-- WARM_RESET: RSTCTL with KIND 1 (R396). -/
def execWarmReset (m : Master) (s : State) : Out := .next (s.put m pgPower 0x060 0xC1EA1000 false none)

/-- REGION_RESET: RSTCTL with KIND 2 (R396). -/
def execRegionReset (m : Master) (r : RegionIx) (s : State) : Out :=
  .next (s.put m pgPower 0x060 (0xC1EA2000 ||| w32 r.val) false none)

/-- CLUSTER_RESET: RSTCTL with KIND 3 (R396). -/
def execClusterReset (m : Master) (c : ClusterIx) (s : State) : Out :=
  .next (s.put m pgPower 0x060 (0xC1EA3000 ||| w32 c.val) false none)

/-- UNIT_RESET: RSTCTL with KIND 4 (R396). -/
def execUnitReset (m : Master) (g : UnitIx) (s : State) : Out :=
  .next (s.put m pgPower 0x060 (0xC1EA4000 ||| w32 g.val) false none)

/-- REEL_RESET: RSTCTL with KIND 5 (R396). -/
def execReelReset (m : Master) (n : ReelIx) (s : State) : Out :=
  .next (s.put m pgPower 0x060 (0xC1EA5000 ||| w32 n.val) false none)

/-- RSTCTL_REFUSED: RSTCTL with a wrong key, kind or index (R397). -/
def execRstctlRefused (m : Master) (v : Word) (s : State) : Out := .next (s.put m pgPower 0x060 v false none)

/-! ### The common header (R419 to R422) and any other register (R8) -/

/-- SOFT_RESET: PGCTL.SRST (R421). -/
def execSoftReset (m : Master) (page : BitVec 14) (s : State) : Out := .next (s.put m page.toNat 0x008 2 false none)

/-- PGCTL_LOCK (R422). -/
def execPgctlLock (m : Master) (page : BitVec 14) (s : State) : Out :=
  .next (s.put m page.toNat 0x008 0x80000000 false none)

/-- PGIRQ_TEST (R419). -/
def execPgirqTest (m : Master) (page : BitVec 14) (v : Word) (s : State) : Out :=
  .next (s.put m page.toNat 0x01C v false none)

/-- LOCKERR_READ (R419). -/
def execLockerrRead (m : Master) (page : BitVec 14) (s : State) : Out := .next (s.answer m page.toNat 0x020)

/-- REGISTER_WRITE: a write of the register `reg` (R8). DESIGN CHOICE; log entry 16. -/
def execRegisterWrite (m : Master) (page : BitVec 14) (reg : BitVec 10) (v : Word) (s : State) : Out :=
  .next (s.put m page.toNat (4 * reg.toNat) v false none)

end Sys2Proof.Machine
end

