-- ==== Sys2Proof/Machine/UnitBlock.lean ====
section
/-! DEFINITION. Block instructions (R105, R106): each command makes one step. -/

namespace Sys2Proof.Machine

/-- Two of the operand registers are the same (R106). -/
def sameRegs (f : RF) : Bool := decide (f.rd = f.rs1 ∨ f.rd = f.rs2 ∨ f.rs1 = f.rs2)

/-- A block instruction: a count of 0 completes it at once, a misaligned operand of `l` raises ALIGN before any step,
and otherwise `step` makes the next step (R105, R106). With a count of 0 a misaligned operand raises nothing (DESIGN
CHOICE; log entry 58). -/
def State.block (s : State) (p : Nat) (e : Enc) (f : RF) (l : UnitSt → List Word) (step : State → State) : State :=
  s.issue p e (rfBad f || sameRegs f) anyMode fun s =>
    if gOf (s.u p) f.rs2 = 0 then s.seq p e.len
    else
      match (l (s.u p)).find? (fun a => decide (a.toNat % 4 ≠ 0)) with
      | some a => s.raise p 0x04 0 (s.u p).pc e.info a
      | none => step s

/-- BCOPY: a step reads the word at rs1 and then writes it at rd. -/
def execBcopy (p : UnitIx) (f : RF) (s : State) : Out :=
  let e := eR 0x1A 0 f
  .next (s.block p.val e f (fun x => [gOf x f.rd, gOf x f.rs1]) fun s =>
    s.access p.val (jobOf .load (gOf (s.u p.val) f.rs1) 2 0 e (.bcopyRead f.rd.toNat f.rs1.toNat f.rs2.toNat)))

/-- BFILL: a step writes rs1 at rd. -/
def execBfill (p : UnitIx) (f : RF) (s : State) : Out :=
  let e := eR 0x1A 1 f
  .next (s.block p.val e f (fun x => [gOf x f.rd]) fun s =>
    s.access p.val (jobOf .store (gOf (s.u p.val) f.rd) 2 (gOf (s.u p.val) f.rs1) e (.bfill f.rd.toNat f.rs2.toNat)))

/-- BCRC: a step folds up to four bytes of the word at rs1 into rd. -/
def execBcrc (p : UnitIx) (f : RF) (s : State) : Out :=
  let e := eR 0x1A 2 f
  .next (s.block p.val e f (fun x => [gOf x f.rs1]) fun s =>
    s.access p.val (jobOf .load (gOf (s.u p.val) f.rs1) 2 0 e (.bcrc f.rd.toNat f.rs1.toNat f.rs2.toNat)))

end Sys2Proof.Machine
end

