-- ==== Sys2Proof/Machine/Dispatch.lean ====
section
/-! DEFINITION. One arm for each command: the meaning it calls. -/

namespace Sys2Proof.Machine

/-- The effect of a command on everything but the queue. -/
def exec (i : Instr) (s : State) : Host.Outcome State Fault Refusal :=
  match i with
  | .add p f => Sys2Proof.Machine.execAdd p f s
  | .sub p f => Sys2Proof.Machine.execSub p f s
  | .adc p f => Sys2Proof.Machine.execAdc p f s
  | .sbc p f => Sys2Proof.Machine.execSbc p f s
  | .and p f => Sys2Proof.Machine.execAnd p f s
  | .or p f => Sys2Proof.Machine.execOr p f s
  | .xor p f => Sys2Proof.Machine.execXor p f s
  | .andn p f => Sys2Proof.Machine.execAndn p f s
  | .cmp p f => Sys2Proof.Machine.execCmp p f s
  | .tst p rd rs => Sys2Proof.Machine.execTst p rd rs s
  | .slt p f => Sys2Proof.Machine.execSlt p f s
  | .sltu p f => Sys2Proof.Machine.execSltu p f s
  | .neg p f => Sys2Proof.Machine.execNeg p f s
  | .mov p rd rs => Sys2Proof.Machine.execMov p rd rs s
  | .addi p f => Sys2Proof.Machine.execAddi p f s
  | .andi p f => Sys2Proof.Machine.execAndi p f s
  | .ori p f => Sys2Proof.Machine.execOri p f s
  | .xori p f => Sys2Proof.Machine.execXori p f s
  | .cmpi p f => Sys2Proof.Machine.execCmpi p f s
  | .movi p rd simm => Sys2Proof.Machine.execMovi p rd simm s
  | .lui p rd imm => Sys2Proof.Machine.execLui p rd imm s
  | .addpc p rd imm => Sys2Proof.Machine.execAddpc p rd imm s
  | .shl p f => Sys2Proof.Machine.execShl p f s
  | .shr p f => Sys2Proof.Machine.execShr p f s
  | .sar p f => Sys2Proof.Machine.execSar p f s
  | .ror p f => Sys2Proof.Machine.execRor p f s
  | .mul p f => Sys2Proof.Machine.execMul p f s
  | .mulu p f => Sys2Proof.Machine.execMulu p f s
  | .productWrite p => Sys2Proof.Machine.execProductWrite p s
  | .div p f => Sys2Proof.Machine.execDiv p f s
  | .divu p f => Sys2Proof.Machine.execDivu p f s
  | .rem p f => Sys2Proof.Machine.execRem p f s
  | .remu p f => Sys2Proof.Machine.execRemu p f s
  | .divideComplete p => Sys2Proof.Machine.execDivideComplete p s
  | .lw p f => Sys2Proof.Machine.execLw p f s
  | .lh p f => Sys2Proof.Machine.execLh p f s
  | .lhu p f => Sys2Proof.Machine.execLhu p f s
  | .lb p f => Sys2Proof.Machine.execLb p f s
  | .lbu p f => Sys2Proof.Machine.execLbu p f s
  | .sw p f => Sys2Proof.Machine.execSw p f s
  | .sh p f => Sys2Proof.Machine.execSh p f s
  | .sb p f => Sys2Proof.Machine.execSb p f s
  | .push p rs rsv => Sys2Proof.Machine.execPush p rs rsv s
  | .pop p rs rsv => Sys2Proof.Machine.execPop p rs rsv s
  | .amoadd p f => Sys2Proof.Machine.execAmoadd p f s
  | .amoswp p f => Sys2Proof.Machine.execAmoswp p f s
  | .ldp p f => Sys2Proof.Machine.execLdp p f s
  | .bCond p f => Sys2Proof.Machine.execBCond p f s
  | .j p f => Sys2Proof.Machine.execJ p f s
  | .call p f => Sys2Proof.Machine.execCall p f s
  | .jr p f => Sys2Proof.Machine.execJr p f s
  | .callr p f => Sys2Proof.Machine.execCallr p f s
  | .ret p r47 rsv => Sys2Proof.Machine.execRet p r47 rsv s
  | .loop p f => Sys2Proof.Machine.execLoop p f s
  | .mfs p f => Sys2Proof.Machine.execMfs p f s
  | .mts p f => Sys2Proof.Machine.execMts p f s
  | .wfe p f => Sys2Proof.Machine.execWfe p f s
  | .sevC p f => Sys2Proof.Machine.execSevC p f s
  | .sevR p f => Sys2Proof.Machine.execSevR p f s
  | .eventDelivery p => Sys2Proof.Machine.execEventDelivery p s
  | .waitt p f => Sys2Proof.Machine.execWaitt p f s
  | .waittTargetReached p => Sys2Proof.Machine.execWaittTargetReached p s
  | .bcopy p f => Sys2Proof.Machine.execBcopy p f s
  | .bfill p f => Sys2Proof.Machine.execBfill p f s
  | .bcrc p f => Sys2Proof.Machine.execBcrc p f s
  | .fence p f => Sys2Proof.Machine.execFence p f s
  | .ckpt p f => Sys2Proof.Machine.execCkpt p f s
  | .checkpointComplete p => Sys2Proof.Machine.execCheckpointComplete p s
  | .trap p f => Sys2Proof.Machine.execTrap p f s
  | .eret p f => Sys2Proof.Machine.execEret p f s
  | .tlbinv p f => Sys2Proof.Machine.execTlbinv p f s
  | .tlbinvAll p f => Sys2Proof.Machine.execTlbinvAll p f s
  | .nop p f => Sys2Proof.Machine.execNop p f s
  | .customerInstruction p f => Sys2Proof.Machine.execCustomerInstruction p f s
  | .exceptionEntry p => Sys2Proof.Machine.execExceptionEntry p s
  | .uirqSourcePending p src => Sys2Proof.Machine.execUirqSourcePending p src s
  | .storeBufferDrain p => Sys2Proof.Machine.execStoreBufferDrain p s
  | .hostResponse id wr code data => Sys2Proof.Machine.execHostResponse id wr code data s
  | .hostTimeout id => Sys2Proof.Machine.execHostTimeout id s
  | .csdata3Write m c v => Sys2Proof.Machine.execCsdata3Write m c v s
  | .csdata0Read m c => Sys2Proof.Machine.execCsdata0Read m c s
  | .csdata3Read m c => Sys2Proof.Machine.execCsdata3Read m c s
  | .csctlRead m c => Sys2Proof.Machine.execCsctlRead m c s
  | .reelNop r k w => Sys2Proof.Machine.execReelNop r k w s
  | .ldi r k f => Sys2Proof.Machine.execLdi r k f s
  | .ldhi r k f => Sys2Proof.Machine.execLdhi r k f s
  | .reelMov r k f => Sys2Proof.Machine.execReelMov r k f s
  | .alua r k f => Sys2Proof.Machine.execAlua r k f s
  | .alub r k f => Sys2Proof.Machine.execAlub r k f s
  | .sample r k f => Sys2Proof.Machine.execSample r k f s
  | .shin r k f => Sys2Proof.Machine.execShin r k f s
  | .shout r k f => Sys2Proof.Machine.execShout r k f s
  | .drive r k f => Sys2Proof.Machine.execDrive r k f s
  | .oe r k f => Sys2Proof.Machine.execOe r k f s
  | .waitpin r k f => Sys2Proof.Machine.execWaitpin r k f s
  | .waittime r k f => Sys2Proof.Machine.execWaittime r k f s
  | .waitbit r k f => Sys2Proof.Machine.execWaitbit r k f s
  | .jmp r k f => Sys2Proof.Machine.execJmp r k f s
  | .djnz r k f => Sys2Proof.Machine.execDjnz r k f s
  | .reelPush r k f => Sys2Proof.Machine.execReelPush r k f s
  | .pull r k f => Sys2Proof.Machine.execPull r k f s
  | .crc r k f => Sys2Proof.Machine.execCrc r k f s
  | .irq r k f => Sys2Proof.Machine.execIrq r k f s
  | .tstamp r k f => Sys2Proof.Machine.execTstamp r k f s
  | .setbt r k f => Sys2Proof.Machine.execSetbt r k f s
  | .hsync r k f => Sys2Proof.Machine.execHsync r k f s
  | .stop r k f => Sys2Proof.Machine.execStop r k f s
  | .padEdge pad level => Sys2Proof.Machine.execPadEdge pad level s
  | .samplePoint r k => Sys2Proof.Machine.execSamplePoint r k s
  | .bitBoundary r k => Sys2Proof.Machine.execBitBoundary r k s
  | .channelStart m n k v => Sys2Proof.Machine.execChannelStart m n k v s
  | .channelStop m n k v => Sys2Proof.Machine.execChannelStop m n k v s
  | .crst m n k v => Sys2Proof.Machine.execCrst m n k v s
  | .smpcfgWrite m n k v => Sys2Proof.Machine.execSmpcfgWrite m n k v s
  | .txdWrite m n k v => Sys2Proof.Machine.execTxdWrite m n k v s
  | .rxdRead m n k => Sys2Proof.Machine.execRxdRead m n k s
  | .rxdropRead m n k => Sys2Proof.Machine.execRxdropRead m n k s
  | .inject m n k v => Sys2Proof.Machine.execInject m n k v s
  | .qjoinWrite m n v => Sys2Proof.Machine.execQjoinWrite m n v s
  | .programWordWrite m n w v => Sys2Proof.Machine.execProgramWordWrite m n w v s
  | .programWordRead m n w => Sys2Proof.Machine.execProgramWordRead m n w s
  | .ssctlArm m r v => Sys2Proof.Machine.execSsctlArm m r v s
  | .startCycle r => Sys2Proof.Machine.execStartCycle r s
  | .frameReceive port fr => Sys2Proof.Machine.execFrameReceive port fr s
  | .egressSelection port => Sys2Proof.Machine.execEgressSelection port s
  | .transmissionEnd port => Sys2Proof.Machine.execTransmissionEnd port s
  | .fpLinkDown port => Sys2Proof.Machine.execFpLinkDown port s
  | .fpcfgWrite m port v => Sys2Proof.Machine.execFpcfgWrite m port v s
  | .txDescriptor c => Sys2Proof.Machine.execTxDescriptor c s
  | .clusterPortDelivery c => Sys2Proof.Machine.execClusterPortDelivery c s
  | .tableRead m stage => Sys2Proof.Machine.execTableRead m stage s
  | .tableWrite m stage => Sys2Proof.Machine.execTableWrite m stage s
  | .gateListChange l => Sys2Proof.Machine.execGateListChange l s
  | .listSwap l => Sys2Proof.Machine.execListSwap l s
  | .scheduleRowChange l => Sys2Proof.Machine.execScheduleRowChange l s
  | .egtagRead m port => Sys2Proof.Machine.execEgtagRead m port s
  | .fxstgRead m stage => Sys2Proof.Machine.execFxstgRead m stage s
  | .step m v => Sys2Proof.Machine.execStep m v s
  | .timeStep => Sys2Proof.Machine.execTimeStep s
  | .slew m v => Sys2Proof.Machine.execSlew m v s
  | .slewEnd => Sys2Proof.Machine.execSlewEnd s
  | .tbincWrite m v => Sys2Proof.Machine.execTbincWrite m v s
  | .tbnowlRead m => Sys2Proof.Machine.execTbnowlRead m s
  | .timePulse n => Sys2Proof.Machine.execTimePulse n s
  | .timePulseCapture n level => Sys2Proof.Machine.execTimePulseCapture n level s
  | .tpcaplRead m n => Sys2Proof.Machine.execTpcaplRead m n s
  | .rsctlChange m r v => Sys2Proof.Machine.execRsctlChange m r v s
  | .csArm m v => Sys2Proof.Machine.execCsArm m v s
  | .snap => Sys2Proof.Machine.execSnap s
  | .csshloRead m => Sys2Proof.Machine.execCsshloRead m s
  | .bkstatRead m c b => Sys2Proof.Machine.execBkstatRead m c b s
  | .bkcollRead m c b => Sys2Proof.Machine.execBkcollRead m c b s
  | .bkuncRead m c b => Sys2Proof.Machine.execBkuncRead m c b s
  | .bkconfRead m c b n => Sys2Proof.Machine.execBkconfRead m c b n s
  | .dmaStart m c n v => Sys2Proof.Machine.execDmaStart m c n v s
  | .dmaBurst c n meets => Sys2Proof.Machine.execDmaBurst c n meets s
  | .dmaStop m c n v => Sys2Proof.Machine.execDmaStop m c n v s
  | .shacq m c n => Sys2Proof.Machine.execShacq m c n s
  | .shrel m c n => Sys2Proof.Machine.execShrel m c n s
  | .shcan m c => Sys2Proof.Machine.execShcan m c s
  | .shfrelForce m c n => Sys2Proof.Machine.execShfrelForce m c n s
  | .lockGrant c n => Sys2Proof.Machine.execLockGrant c n s
  | .mtctlGo m c v => Sys2Proof.Machine.execMtctlGo m c v s
  | .marchTestStop m c v => Sys2Proof.Machine.execMarchTestStop m c v s
  | .chunkPass c bad yielded => Sys2Proof.Machine.execChunkPass c bad yielded s
  | .chunkRetry c => Sys2Proof.Machine.execChunkRetry c s
  | .marchTestEnd c bad => Sys2Proof.Machine.execMarchTestEnd c bad s
  | .mtstatRead m c => Sys2Proof.Machine.execMtstatRead m c s
  | .mtcntRead m c => Sys2Proof.Machine.execMtcntRead m c s
  | .bankClearComplete c b => Sys2Proof.Machine.execBankClearComplete c b s
  | .regionMemoryClearComplete r group => Sys2Proof.Machine.execRegionMemoryClearComplete r group s
  | .uforce m c v => Sys2Proof.Machine.execUforce m c v s
  | .rforce m c v => Sys2Proof.Machine.execRforce m c v s
  | .unitTakeover c regErr => Sys2Proof.Machine.execUnitTakeover c regErr s
  | .reelTakeover c mismatch => Sys2Proof.Machine.execReelTakeover c mismatch s
  | .ngretWrite m c e k v => Sys2Proof.Machine.execNgretWrite m c e k v s
  | .hwbWrite m g n w v => Sys2Proof.Machine.execHwbWrite m g n w v s
  | .invall m g => Sys2Proof.Machine.execInvall m g s
  | .invva m g => Sys2Proof.Machine.execInvva m g s
  | .tlblkWrite m g n v => Sys2Proof.Machine.execTlblkWrite m g n v s
  | .uwdkick m g v => Sys2Proof.Machine.execUwdkick m g v s
  | .uwdctlWrite m g v => Sys2Proof.Machine.execUwdctlWrite m g v s
  | .watchdogWarn p => Sys2Proof.Machine.execWatchdogWarn p s
  | .wdtBite p => Sys2Proof.Machine.execWdtBite p s
  | .swdkick m v => Sys2Proof.Machine.execSwdkick m v s
  | .swdctlWrite m v => Sys2Proof.Machine.execSwdctlWrite m v s
  | .swdwarn => Sys2Proof.Machine.execSwdwarn s
  | .syswdtBite => Sys2Proof.Machine.execSyswdtBite s
  | .swdbadRead m => Sys2Proof.Machine.execSwdbadRead m s
  | .developerSequence scan exam bad => Sys2Proof.Machine.execDeveloperSequence scan exam bad s
  | .confirm m bad => Sys2Proof.Machine.execConfirm m bad s
  | .revoke m bad => Sys2Proof.Machine.execRevoke m bad s
  | .lifeadv m bad => Sys2Proof.Machine.execLifeadv m bad s
  | .dvcmdUnknown m cmd => Sys2Proof.Machine.execDvcmdUnknown m cmd s
  | .dvcmdDone => Sys2Proof.Machine.execDvcmdDone s
  | .rcdataWrite m v => Sys2Proof.Machine.execRcdataWrite m v s
  | .boot m => Sys2Proof.Machine.execBoot m s
  | .keyprog m bad => Sys2Proof.Machine.execKeyprog m bad s
  | .rccmdUnknown m cmd => Sys2Proof.Machine.execRccmdUnknown m cmd s
  | .rccmdDone => Sys2Proof.Machine.execRccmdDone s
  | .begin m timeout => Sys2Proof.Machine.execBegin m timeout s
  | .erase m timeout => Sys2Proof.Machine.execErase m timeout s
  | .prog m timeout bad => Sys2Proof.Machine.execProg m timeout bad s
  | .finish m timeout bad => Sys2Proof.Machine.execFinish m timeout bad s
  | .abort m => Sys2Proof.Machine.execAbort m s
  | .upcmdUnknown m cmd => Sys2Proof.Machine.execUpcmdUnknown m cmd s
  | .updateCommandDone => Sys2Proof.Machine.execUpdateCommandDone s
  | .load m v => Sys2Proof.Machine.execLoad m v s
  | .clear m v => Sys2Proof.Machine.execClear m v s
  | .zeroall m v => Sys2Proof.Machine.execZeroall m v s
  | .mac m v => Sys2Proof.Machine.execMac m v s
  | .kscmdUnknown m v => Sys2Proof.Machine.execKscmdUnknown m v s
  | .keyStoreCommandDone => Sys2Proof.Machine.execKeyStoreCommandDone s
  | .tamper mask => Sys2Proof.Machine.execTamper mask s
  | .safeset m v => Sys2Proof.Machine.execSafeset m v s
  | .safeclr m v => Sys2Proof.Machine.execSafeclr m v s
  | .slstatRead m => Sys2Proof.Machine.execSlstatRead m s
  | .temperatureSample n value => Sys2Proof.Machine.execTemperatureSample n value s
  | .voltageSample n value => Sys2Proof.Machine.execVoltageSample n value s
  | .clockMonitor d inTol count => Sys2Proof.Machine.execClockMonitor d inTol count s
  | .xtalCheck good => Sys2Proof.Machine.execXtalCheck good s
  | .mgmtRestart => Sys2Proof.Machine.execMgmtRestart s
  | .slAliveToggle => Sys2Proof.Machine.execSlAliveToggle s
  | .logRecordWrite => Sys2Proof.Machine.execLogRecordWrite s
  | .logFlush => Sys2Proof.Machine.execLogFlush s
  | .logstatRead m => Sys2Proof.Machine.execLogstatRead m s
  | .wakePad pads => Sys2Proof.Machine.execWakePad pads s
  | .wksw m v => Sys2Proof.Machine.execWksw m v s
  | .wakeAlarm => Sys2Proof.Machine.execWakeAlarm s
  | .presenceResponse m page write => Sys2Proof.Machine.execPresenceResponse m page write s
  | .loupePulse n early => Sys2Proof.Machine.execLoupePulse n early s
  | .loupeFrameTimeout => Sys2Proof.Machine.execLoupeFrameTimeout s
  | .loupeReset => Sys2Proof.Machine.execLoupeReset s
  | .rd cmd off crc => Sys2Proof.Machine.execRd cmd off crc s
  | .wr off v crc => Sys2Proof.Machine.execWr off v crc s
  | .knock => Sys2Proof.Machine.execKnock s
  | .respond => Sys2Proof.Machine.execRespond s
  | .responseCheck => Sys2Proof.Machine.execResponseCheck s
  | .darkslide => Sys2Proof.Machine.execDarkslide s
  | .close => Sys2Proof.Machine.execClose s
  | .challengeTimeout => Sys2Proof.Machine.execChallengeTimeout s
  | .sessionTimeout => Sys2Proof.Machine.execSessionTimeout s
  | .lpsessRead m => Sys2Proof.Machine.execLpsessRead m s
  | .lperrRead m => Sys2Proof.Machine.execLperrRead m s
  | .lpreqReq unit => Sys2Proof.Machine.execLpreqReq unit s
  | .lpreqAll => Sys2Proof.Machine.execLpreqAll s
  | .lpmbtxWrite v => Sys2Proof.Machine.execLpmbtxWrite v s
  | .lpmbrxRead => Sys2Proof.Machine.execLpmbrxRead s
  | .dbgmboutWrite p v => Sys2Proof.Machine.execDbgmboutWrite p v s
  | .dbgmbinRead p => Sys2Proof.Machine.execDbgmbinRead p s
  | .pwctlGo m v => Sys2Proof.Machine.execPwctlGo m v s
  | .powerTransitionStep timeout => Sys2Proof.Machine.execPowerTransitionStep timeout s
  | .pwrel m v => Sys2Proof.Machine.execPwrel m v s
  | .ckudivWrite m v => Sys2Proof.Machine.execCkudivWrite m v s
  | .pcack => Sys2Proof.Machine.execPcack s
  | .ckack sig => Sys2Proof.Machine.execCkack sig s
  | .ckackDrop sig => Sys2Proof.Machine.execCkackDrop sig s
  | .pcslpreq => Sys2Proof.Machine.execPcslpreq s
  | .coreOkFall => Sys2Proof.Machine.execCoreOkFall s
  | .corePowerOnReset straps => Sys2Proof.Machine.execCorePowerOnReset straps s
  | .safelightPowerOnReset => Sys2Proof.Machine.execSafelightPowerOnReset s
  | .safelightPorRelease straps => Sys2Proof.Machine.execSafelightPorRelease straps s
  | .warmReset m => Sys2Proof.Machine.execWarmReset m s
  | .regionReset m r => Sys2Proof.Machine.execRegionReset m r s
  | .clusterReset m c => Sys2Proof.Machine.execClusterReset m c s
  | .unitReset m g => Sys2Proof.Machine.execUnitReset m g s
  | .reelReset m n => Sys2Proof.Machine.execReelReset m n s
  | .rstctlRefused m v => Sys2Proof.Machine.execRstctlRefused m v s
  | .resetRelease sc => Sys2Proof.Machine.execResetRelease sc s
  | .dlLinkUp j => Sys2Proof.Machine.execDlLinkUp j s
  | .dlLinkDown j => Sys2Proof.Machine.execDlLinkDown j s
  | .helloFlit j f => Sys2Proof.Machine.execHelloFlit j f s
  | .timeFlit j f halfTrip => Sys2Proof.Machine.execTimeFlit j f halfTrip s
  | .readFlit j f => Sys2Proof.Machine.execReadFlit j f s
  | .writeFlit j f => Sys2Proof.Machine.execWriteFlit j f s
  | .amoaddFlit j f => Sys2Proof.Machine.execAmoaddFlit j f s
  | .amoswpFlit j f => Sys2Proof.Machine.execAmoswpFlit j f s
  | .responseFlit j f => Sys2Proof.Machine.execResponseFlit j f s
  | .snapFlit j f => Sys2Proof.Machine.execSnapFlit j f s
  | .badFlit j kind f => Sys2Proof.Machine.execBadFlit j kind f s
  | .hostInterruptLine n => Sys2Proof.Machine.execHostInterruptLine n s
  | .softReset m page => Sys2Proof.Machine.execSoftReset m page s
  | .pgctlLock m page => Sys2Proof.Machine.execPgctlLock m page s
  | .pgirqTest m page v => Sys2Proof.Machine.execPgirqTest m page v s
  | .lockerrRead m page => Sys2Proof.Machine.execLockerrRead m page s
  | .registerWrite m page reg v => Sys2Proof.Machine.execRegisterWrite m page reg v s
  | .fpLinkUp port => Sys2Proof.Machine.execFpLinkUp port s
  | .preemptionVerifyEnd port ok => Sys2Proof.Machine.execPreemptionVerifyEnd port ok s
  | .otpSupplyPresent => Sys2Proof.Machine.execOtpSupplyPresent s
  | .linkreqHoldEnd j => Sys2Proof.Machine.execLinkreqHoldEnd j s
  | .replayTimeout c => Sys2Proof.Machine.execReplayTimeout c s
  | .timePulseEnd n => Sys2Proof.Machine.execTimePulseEnd n s

end Sys2Proof.Machine
end

