-- ==== Sys2Proof/Machine/Pins.lean ====
section
/-! DEFINITION. Output signals of the block that are not given beside their registers: boot flash, Loupe, frame ports, die
links and the host master port, with their values while their domain does not run (R361, R365, R398, R401, R402, R404, R410,
R411, R413). The signals are those between two commands. -/

namespace Sys2Proof.Machine

/-! ### Boot flash (R401, R402) -/

/-- The boot-flash outputs: clock, chip select, reset and write protect, all four driven, and the output enables of DQ and
DS. -/
structure BfPins where
  sclk : Bool
  csN : Bool
  resetN : Bool
  wpN : Bool
  dqOe : BitVec 8
  dsOut : Bool
  dsOe : Bool
  deriving DecidableEq, Repr

/-- The boot-flash outputs. A command makes its flash transactions whole, so that none is under way between two commands
(DESIGN CHOICE; log entry 53); RESET_N is 0 for 10 µs from the start of step 3 of the Developer's sequence. -/
def State.bfPins (s : State) : BfPins :=
  { sclk := false, csN := true, resetN := !(s.awake 264 && decide (s.tim.cyc < s.dev.bfT)), wpN := s.bfWpN, dqOe := 0,
    dsOut := false, dsOe := false }

/-! ### Loupe (R361, R365) -/

/-- LOUPE_OUT and LOUPE_OE in response slot `k` of the last frame: the wire is pulled low for a 1, and never outside the
response slots. -/
def State.loupePin (s : State) (k : Nat) : Bool × Bool := (false, s.lou.resp.getD k false)

/-! ### Frame ports (R410, R411) -/

/-- A character of a word: control or data, and its byte. -/
abbrev FpChar := Bool × Byte

/-- The characters of a transmission: start in place of the first preamble byte, the bytes, an error character where it was
stomped, and terminate (R199, R221, R410). -/
def fpChars (l : List Byte) (stomped : Bool) : List FpChar :=
  (true, 0xFB) :: (l.drop 1).map (fun b => (false, b)) ++ (if stomped then [(true, 0xFE)] else []) ++ [(true, 0xFD)]

/-- FP_TXD, FP_TXK and FP_TXERR of a word of four characters, filled with idle. -/
def fpWord (l : List FpChar) : Word × BitVec 4 × Bool :=
  let c := fun (i : Nat) => l.getD i (true, 0x07)
  (w32 (leNat ((List.range 4).map fun i => (c i).2)), BitVec.ofNat 4 (bitsLE ((List.range 4).map fun i => (c i).1)),
    (List.range 4).any fun i => decide (c i = (true, 0xFE)))

/-- The words of a list of characters, at most `n`. -/
def fpWords : Nat → List FpChar → List (Word × BitVec 4 × Bool)
  | 0, _ => []
  | n + 1, l => if l.isEmpty then [] else fpWord (l.take 4) :: fpWords n (l.drop 4)

/-- The words that carried the last transmission of frame port `i`, its start character in lane 0 (R199); a port that does
not run sends idle alone. DESIGN CHOICE; log entry 53. -/
def State.fpTx (s : State) (i : Nat) : List (Word × BitVec 4 × Bool) :=
  let l := fpChars (s.port i).sent (s.port i).stomped
  if s.fpUp i && !(s.port i).sent.isEmpty then fpWords l.length l else [fpWord []]

/-- What the receive side takes a control character for: the 0x9C sequences are idle (R410). -/
def rxControl (b : Byte) : Byte := if b = 0x9C then 0x07 else b

/-! ### Die links and host master port (R404, R413) -/

/-- DL_LINKREQ, DL_TXVALID and the flit presented, with its KIND. -/
def State.dlOut (s : State) (j : Nat) : Bool × Bool × Option (Nat × Flit) :=
  (s.linkReady j, s.linkReady j && !(s.l j).tx.isEmpty, if s.linkReady j then (s.l j).tx.head? else none)

/-- The request presented on the host master port, while the port runs. -/
def State.hmOut (s : State) : Option HRq := if s.hostUp then s.hrq.head? else none

end Sys2Proof.Machine
end

