-- ==== Sys2Proof/Machine/Tick.lean ====
section
/-! DEFINITION. One fabric cycle of an idle step: the clocks and counters that run whatever is commanded, and the
accesses that wait (log entry 20). What happens when a counter reaches its limit is a command of its own. -/

namespace Sys2Proof.Machine

/-! ### Slow clock (R249, R355, R356) -/

/-- A tick of the 32.768 kHz clock: system watchdog, wake alarm, and the ticks that a sleeping time base counts. -/
def State.slowTick (s : State) : State :=
  let s := if s.swdRuns then { s with saf := { s.saf with swd := s.saf.swd - 1 } } else s
  let s := if s.rbit pgSafe 0x444 31 then s.setFld pgSafe 0x444 0 24 (s.rfld pgSafe 0x444 0 24 - 1) else s
  { s with tim := { s.tim with saved := s.tim.saved.map fun (e : Nat × Nat) => (e.1, e.2 + 1) } }

/-- A ns of the slow clock. -/
def State.slowNs (s : State) : State :=
  let n := s.tim.slow + 32768
  if n < 1000000000 then { s with tim := { s.tim with slow := n } }
  else ({ s with tim := { s.tim with slow := n - 1000000000 } }).slowTick

/-! ### TBCLK (R245, R353, R354, R414) -/

/-- A µs of the unit watchdog: it counts in a running, sleeping, waiting or dividing unit and is held in M mode. -/
def State.uwdTick (s : State) (p : Nat) : State :=
  let x := s.u p
  if s.unitUp p && !x.locked then
    if x.mode = 3 then s.onU p fun x => x.setD fun d => { d with heldUs := d.heldUs + 1 }
    else if s.rbit (pgUnit p) 0x2C0 31 then s.onU p fun x => x.setD fun d => { d with uwd := d.uwd - 1 }
    else s
  else s

/-- A µs of TBCLK: unit watchdogs, and the time flits of the package time master. -/
def State.usTick (s : State) : State :=
  let s := each (s.units.map Prod.fst) (fun p s => s.uwdTick p) s
  if s.follower then s else each [0, 1, 2] (fun j s => s.sendFlit j 6 (dataFlit s.T)) s

/-- A TBCLK edge has come: every 125th begins a µs. -/
def State.tbUs (s : State) : State :=
  if s.tim.us + 1 < 125 then { s with tim := { s.tim with us := s.tim.us + 1 } }
  else ({ s with tim := { s.tim with us := 0 } }).usTick

/-- A fabric cycle of the time base. -/
def State.tbNs (s : State) : State :=
  if s.awake 263 && !s.lou.low then
    if s.tim.edge then ({ s with tim := { s.tim with edge := false } }).tbUs
    else if s.tim.phase + 1 < 8 then
      { s with tim := { s.tim with phase := s.tim.phase + 1, adv := s.tim.adv + s.effInc } }
    else s.tbEdge.tbUs
  else s

/-! ### Reels (R161, R165, R191) -/

/-- The start of a Reel cycle at the sampler of a channel: BCYC up to the cycle of the boundary, and the bit checks of
the cycle that has ended, with the level that was visible in it (R165). DEDUCED; log entry 38. -/
def State.smpTick (s : State) (r k : Nat) : State :=
  let x := (s.chan r k).smp
  if s.running r k && x.on then
    let due := x.chk.filter fun e => decide (e.1 < s.rcyc)
    let s := s.onSmp r k fun x =>
      { x with bcyc := if x.bcyc < x.bt.len then x.bcyc + 1 else x.bcyc,
               chk := x.chk.filter fun e => decide (s.rcyc ≤ e.1) }
    each due (fun e s => s.bitCheck r k (s.pinLvl r k (s.rfld (pgReel r) (offSmp k) 0 2)) e.2) s
  else s

/-- A Reel cycle: a page access that waited is taken before the samplers' events of the cycle, so that a flag they set wins
over a clear of the same cycle (R8). -/
def State.reelTick (s : State) : State :=
  let s := each (List.range 4) (fun r s =>
    if s.regUp r then { s with rot := Tab.set 0 s.rot r ((Tab.get 0 s.rot r + 1) % 16) } else s) s
  each (s.reels.map Prod.fst) (fun r s =>
    let s := s.pageNext r
    if s.reelUp r then (each (List.range 16) (fun k s => s.smpTick r k) s).qev r else s) s

/-! ### The fabric cycle -/

/-- The fabric cycle counted, with T of the one before it. -/
def State.count1 (s : State) : State :=
  { s with tim := { s.tim with cyc := s.tim.cyc + 1, hist := (s.T :: s.tim.hist).take 5 } }

/-- A Reel cycle begins in every second fabric cycle. -/
def State.reelNs (s : State) : State := if s.tim.cyc % 2 = 0 then s.reelTick else s

/-- The arbiters' cycle: grants end, a scheduled owner displaces a holder, and what waits is served in order; waiting
writes of the control stores land where they may. Of the accesses to register pages those of the host and the management
unit come first, and the Loupe's last (R418). -/
def State.arbCycle (s : State) : State :=
  (each (List.range 16) (fun c s => s.storeNext c) (s.pageCycle false).hostNext.arbiters.serve).pageCycle true

/-- What is presented on the host master port and on the die links is taken, one request and one flit of each link in a
cycle. DESIGN CHOICE; log entry 53. -/
def State.portsTake (s : State) : State :=
  let s : State := { s with hrq := s.hrq.drop 1 }
  each [0, 1, 2] (fun j s => s.setL j { s.l j with tx := (s.l j).tx.drop 1 }) s

/-- A step that the TBCLK edge of the cycle has applied sets STEPPED against a clear of the same cycle (R8). -/
def State.stepWins (s t : State) : State :=
  if s.atEdge && (s.tim.stepPend || s.tim.jump.isSome) then t.setBit pgTime 0x06C 1 true else t

/-- Every fetch queue filled. -/
def State.prefetchAll (s : State) : State := each (s.units.map Prod.fst) (fun p s => s.prefetch p) s

/-- One fabric cycle in which no command arrives. DESIGN CHOICE; log entry 20. -/
def State.tick (s : State) : State :=
  if s.saf.por then s.porTick
  else s.stepWins s.portsTake.count1.slowNs.tbNs.reelNs.arbCycle.prefetchAll.progTick.bootAsk

end Sys2Proof.Machine
end

