-- ==== Sys2Proof/WellFormed.lean ====
section
/-! DEFINITION. Well-formed commands: the operand values that a row of the table admits. A command outside them names
another row, or nothing. The meanings are total all the same. -/

namespace Sys2Proof

/-- An encoding that no row assigns (R76): bit 15 of the first halfword gives the length, and decoding names no
instruction. -/
def encRaw (e : Enc) : Bool :=
  (match e with
   | .c16 h => !bit h 15
   | .w32 i => bit i 15)
    && decide (decodeUnit 0 e = .nop 0 (.raw e))

/-- NOP, or an unassigned encoding. -/
def nopWf : NopForm → Bool
  | .sys _ => true
  | .raw e => encRaw e

/-- A word of Reel operation 0 or of an unassigned operation (R166, R167). -/
def reelNopWf (w : Word) : Bool := decide (fld w 27 5 = 0) || decide (0x18 ≤ fld w 27 5)

/-- Failed rows of a chunk, as row within the chunk and element of R282 that reads. -/
def chunkBadWf (l : List (Nat × Nat)) : Bool := l.all fun e => decide (e.1 < 16 ∧ 2 ≤ e.2 ∧ e.2 ≤ 6)

/-- Failed rows of a test, as bank, row and element. -/
def marchBadWf (l : List (Nat × Nat × Nat)) : Bool :=
  l.all fun e => decide (e.1 < 8 ∧ e.2.1 < 2048 ∧ 2 ≤ e.2.2 ∧ e.2.2 ≤ 6)

/-- A flit that is not malformed: the reserved bits are 0 (R414). -/
def flitWf (f : Flit) : Bool := decide (f.rsv = 0)

/-- A value of RSTCTL that names no reset: a wrong key, kind or index (R396, R397). -/
def rstBad (v : Word) : Bool :=
  decide (fld v 16 16 ≠ 0xC1EA)
    || (match fld v 12 3 with
        | 1 => decide (fld v 0 9 ≠ 0)
        | 2 => decide (4 ≤ fld v 0 9)
        | 3 => decide (16 ≤ fld v 0 9)
        | 4 => decide (144 ≤ fld v 0 9)
        | 5 => decide (80 ≤ fld v 0 9)
        | _ => true)

/-- The operands of a command are values that its row admits. -/
def wellFormed : Instr → Bool
  | .nop _ f => nopWf f
  | .reelNop _ _ w => reelNopWf w
  | .channelStart _ _ _ v => bit v 31 && !bit v 28
  | .channelStop _ _ _ v => !bit v 31 && !bit v 28
  | .crst _ _ _ v => bit v 28
  | .step _ v => bit v 31
  | .slew _ v => bit v 30 && !bit v 31
  | .rsctlChange _ _ v => bit v 30
  | .dmaStart _ _ _ v => bit v 31
  | .dmaStop _ _ _ v => !bit v 31
  | .dmaBurst _ _ meets => meets.all fun i => decide (i < 64)
  | .mtctlGo _ _ v => bit v 31
  | .marchTestStop _ _ v => bit v 30 && !bit v 31
  | .chunkPass _ bad _ => chunkBadWf bad
  | .marchTestEnd _ bad => marchBadWf bad
  | .uforce _ _ v => bit v 28
  | .rforce _ _ v => bit v 27 && !bit v 28
  | .dvcmdUnknown _ cmd => decide (cmd = 0) || decide (4 ≤ cmd.toNat)
  | .rccmdUnknown _ cmd => decide (cmd = 0) || decide (3 ≤ cmd.toNat)
  | .upcmdUnknown _ cmd => decide (cmd = 0) || decide (6 ≤ cmd.toNat)
  | .load _ v => decide (fld v 0 3 = 1)
  | .clear _ v => decide (fld v 0 3 = 2)
  | .zeroall _ v => decide (fld v 0 3 = 3)
  | .mac _ v => decide (fld v 0 3 = 4)
  | .kscmdUnknown _ v => decide (fld v 0 3 = 0) || decide (5 ≤ fld v 0 3)
  | .safeset _ v => bit v 31
  | .safeclr _ v => bit v 30 && !bit v 31
  | .rd cmd _ _ => decide (cmd ≠ 2)
  | .pwctlGo _ v => bit v 31
  | .rstctlRefused _ v => rstBad v
  | .helloFlit _ f => flitWf f
  | .timeFlit _ f _ => flitWf f
  | .readFlit _ f => flitWf f
  | .writeFlit _ f => flitWf f
  | .amoaddFlit _ f => flitWf f
  | .amoswpFlit _ f => flitWf f
  | .responseFlit _ f => flitWf f
  | .snapFlit _ f => flitWf f
  | .badFlit _ kind f => decide (9 ≤ kind.toNat) || !flitWf f
  | .add _ _ | .sub _ _ | .adc _ _ | .sbc _ _ | .and _ _ | .or _ _ | .xor _ _ | .andn _ _ | .cmp _ _
  | .tst _ _ _ | .slt _ _ | .sltu _ _ | .neg _ _ | .mov _ _ _ | .addi _ _ | .andi _ _ | .ori _ _ | .xori _ _
  | .cmpi _ _ | .movi _ _ _ | .lui _ _ _ | .addpc _ _ _ | .shl _ _ | .shr _ _ | .sar _ _ | .ror _ _ | .mul _ _
  | .mulu _ _ | .productWrite _ | .div _ _ | .divu _ _ | .rem _ _ | .remu _ _ | .divideComplete _ | .lw _ _
  | .lh _ _ | .lhu _ _ | .lb _ _ | .lbu _ _ | .sw _ _ | .sh _ _ | .sb _ _ | .push _ _ _ | .pop _ _ _
  | .amoadd _ _ | .amoswp _ _ | .ldp _ _ | .bCond _ _ | .j _ _ | .call _ _ | .jr _ _ | .callr _ _ | .ret _ _ _
  | .loop _ _ | .mfs _ _ | .mts _ _ | .wfe _ _ | .sevC _ _ | .sevR _ _ | .eventDelivery _ | .waitt _ _
  | .waittTargetReached _ | .bcopy _ _ | .bfill _ _ | .bcrc _ _ | .fence _ _ | .ckpt _ _
  | .checkpointComplete _ | .trap _ _ | .eret _ _ | .tlbinv _ _ | .tlbinvAll _ _ | .customerInstruction _ _
  | .exceptionEntry _ | .uirqSourcePending _ _ | .storeBufferDrain _ | .hostResponse _ _ _ _ | .hostTimeout _
  | .csdata3Write _ _ _ | .csdata0Read _ _ | .csdata3Read _ _ | .csctlRead _ _ | .ldi _ _ _ | .ldhi _ _ _
  | .reelMov _ _ _ | .alua _ _ _ | .alub _ _ _ | .sample _ _ _ | .shin _ _ _ | .shout _ _ _ | .drive _ _ _
  | .oe _ _ _ | .waitpin _ _ _ | .waittime _ _ _ | .waitbit _ _ _ | .jmp _ _ _ | .djnz _ _ _ | .reelPush _ _ _
  | .pull _ _ _ | .crc _ _ _ | .irq _ _ _ | .tstamp _ _ _ | .setbt _ _ _ | .hsync _ _ _ | .stop _ _ _
  | .padEdge _ _ | .samplePoint _ _ | .bitBoundary _ _ | .smpcfgWrite _ _ _ _ | .txdWrite _ _ _ _
  | .rxdRead _ _ _ | .rxdropRead _ _ _ | .inject _ _ _ _ | .qjoinWrite _ _ _ | .programWordWrite _ _ _ _
  | .programWordRead _ _ _ | .ssctlArm _ _ _ | .startCycle _ | .frameReceive _ _ | .egressSelection _
  | .transmissionEnd _ | .fpLinkDown _ | .fpcfgWrite _ _ _ | .txDescriptor _ | .clusterPortDelivery _
  | .tableRead _ _ | .tableWrite _ _ | .gateListChange _ | .listSwap _ | .scheduleRowChange _ | .egtagRead _ _
  | .fxstgRead _ _ | .timeStep | .slewEnd | .tbincWrite _ _ | .tbnowlRead _ | .timePulse _
  | .timePulseCapture _ _ | .tpcaplRead _ _ | .csArm _ _ | .snap | .csshloRead _ | .bkstatRead _ _ _
  | .bkcollRead _ _ _ | .bkuncRead _ _ _ | .bkconfRead _ _ _ _ | .shacq _ _ _ | .shrel _ _ _ | .shcan _ _
  | .shfrelForce _ _ _ | .lockGrant _ _ | .chunkRetry _ | .mtstatRead _ _ | .mtcntRead _ _
  | .bankClearComplete _ _ | .regionMemoryClearComplete _ _ | .ngretWrite _ _ _ _ _ | .hwbWrite _ _ _ _ _
  | .invall _ _ | .invva _ _ | .tlblkWrite _ _ _ _ | .uwdkick _ _ _ | .uwdctlWrite _ _ _ | .watchdogWarn _
  | .wdtBite _ | .swdkick _ _ | .swdctlWrite _ _ | .swdwarn | .syswdtBite | .swdbadRead _
  | .developerSequence _ _ _ | .confirm _ _ | .revoke _ _ | .lifeadv _ _ | .dvcmdDone | .rcdataWrite _ _
  | .boot _ | .keyprog _ _ | .rccmdDone | .begin _ _ | .erase _ _ | .prog _ _ _ | .finish _ _ _ | .abort _
  | .updateCommandDone | .keyStoreCommandDone | .tamper _ | .slstatRead _ | .temperatureSample _ _
  | .voltageSample _ _ | .clockMonitor _ _ _ | .xtalCheck _ | .mgmtRestart | .slAliveToggle | .logRecordWrite
  | .logFlush | .logstatRead _ | .wakePad _ | .wksw _ _ | .wakeAlarm | .presenceResponse _ _ _
  | .loupePulse _ _ | .loupeFrameTimeout | .loupeReset | .wr _ _ _ | .knock | .respond | .responseCheck
  | .darkslide | .close | .challengeTimeout | .sessionTimeout | .lpsessRead _ | .lperrRead _ | .lpreqReq _
  | .lpreqAll | .lpmbtxWrite _ | .lpmbrxRead | .dbgmboutWrite _ _ | .dbgmbinRead _ | .powerTransitionStep _
  | .pwrel _ _ | .ckudivWrite _ _ | .pcack | .ckack _ | .ckackDrop _ | .pcslpreq | .coreOkFall
  | .corePowerOnReset _ | .safelightPowerOnReset | .safelightPorRelease _ | .warmReset _ | .regionReset _ _
  | .clusterReset _ _ | .unitReset _ _ | .reelReset _ _ | .resetRelease _ | .dlLinkUp _ | .dlLinkDown _
  | .hostInterruptLine _ | .softReset _ _ | .pgctlLock _ _ | .pgirqTest _ _ _ | .lockerrRead _ _
  | .registerWrite _ _ _ _ | .fpLinkUp _ | .preemptionVerifyEnd _ _ | .otpSupplyPresent | .linkreqHoldEnd _
  | .replayTimeout _ | .timePulseEnd _ | .unitTakeover _ _ | .reelTakeover _ _ => true

end Sys2Proof
end

