-- ==== Sys2Proof/Safety.lean ====
section
/-! DEFINITION. What a safe step is, and the words the statements are written in. -/

namespace Sys2Proof.Machine

/-- The outcome is a next state. -/
def completes (o : Host.Outcome State Fault Refusal) : Bool :=
  match o with
  | .next _ => true
  | .fault _ => false
  | .refused _ => false

/-- The next state of an outcome, and `s` for an outcome with none. -/
def after (s : State) (o : Host.Outcome State Fault Refusal) : State :=
  match o with
  | .next t => t
  | .fault _ => s
  | .refused _ => s

end Sys2Proof.Machine

namespace Sys2Proof.Claims

open Sys2Proof.Machine

/-! ### The words of the statements about units -/

/-- Unit `p` executes the instruction `e` next: it is ready, its fetch queue holds the halfwords of `e`, and no fetch
watchpoint matches. An instruction that is not in the queue yet is fetched first (`FetchedFirst`). -/
def Issues (s : State) (p : UnitIx) (e : Enc) : Prop :=
  s.ready p.val = true ∧ s.fetch p.val e = .ok s ∧ s.fetchWatch p.val = none

/-- LC after the loop-end step of R100. -/
def seqLc (x : UnitSt) : Word := if x.pc = x.spr.le ∧ x.spr.lc ≠ 0 then x.spr.lc - 1 else x.spr.lc

/-- The next program counter after an instruction of `len` bytes that does not jump (R82, R100). -/
def seqPc (x : UnitSt) (len : Nat) : Word :=
  if x.pc = x.spr.le ∧ x.spr.lc ≠ 0 ∧ x.spr.lc ≠ 1 then x.spr.ls else x.pc + w32 len

/-- Nothing changes but unit `p`, and DBGCTL of its page when a single step ends. -/
def OnlyUnit (s t : State) (p : Nat) : Prop :=
  t = { s with units := t.units, regs := t.regs } ∧ (∀ q, q ≠ p → t.u q = s.u q) ∧
    (∀ k, k ≠ rkey (pgUnit p) 0x540 → Tab.get (regDef k) t.regs k = Tab.get (regDef k) s.regs k)

/-- Every register keeps its value but DBGCTL of unit `p` when a single step ends, and the conflict counters of the banks
of its cluster: an access of a bank's home unit takes a cycle from a master that holds a port of the bank (R266, R269). -/
def OnlyConflicts (s t : State) (p : Nat) : Prop :=
  ∀ k, k ≠ rkey (pgUnit p) 0x540 → ¬(rkey (pgBanks (cOf p)) 0x400 ≤ k ∧ k < rkey (pgBanks (cOf p)) 0x680) →
    Tab.get (regDef k) t.regs k = Tab.get (regDef k) s.regs k

/-- As `OnlyUnit`, with the arbiters of the memory that the unit accesses. -/
def OnlyUnitArb (s t : State) (p : Nat) : Prop :=
  t = { s with units := t.units, regs := t.regs, arb := t.arb } ∧ (∀ q, q ≠ p → t.u q = s.u q) ∧ OnlyConflicts s t p

/-- As `OnlyUnitArb`, with memory. -/
def OnlyUnitMem (s t : State) (p : Nat) : Prop :=
  t = { s with units := t.units, regs := t.regs, arb := t.arb, mem := t.mem, synd := t.synd } ∧
    (∀ q, q ≠ p → t.u q = s.u q) ∧ OnlyConflicts s t p

/-- Of a unit nothing changes but general and special registers, the program counter, the fetch queue and the marks of
the instruction stream and of debugging. -/
def SameRest (x y : UnitSt) : Prop :=
  y = { x with g := y.g, spr := y.spr, pc := y.pc, hq := y.hq, hwOld := [], first := false, wrap := y.wrap, dbg := y.dbg }

/-- The general registers with `rd` replaced. -/
def withG (x : UnitSt) (rd : Nat) (v : Word) : Nat → Word := fun i => if i = rd then v else x.gr i

/-- The special registers after sequential completion, ESTAT aside. -/
def SprSeq (x y : UnitSt) : Prop := y.spr = { x.spr with lc := seqLc x, estat := y.spr.estat }

/-- Unit `p` completes an instruction of `len` bytes that does not jump: the general registers are `g`, and of the
special registers only LC and ESTAT may change. -/
def Steps (s t : State) (p len : Nat) (g : Nat → Word) : Prop :=
  (∀ i, (t.u p).gr i = g i) ∧ SprSeq (s.u p) (t.u p) ∧ (t.u p).pc = seqPc (s.u p) len ∧ SameRest (s.u p) (t.u p)

/-- ESTAT with N, Z, C and V as given, and every other bit as before (R87). -/
def FlagsAre (e e' : Word) (n z c v : Bool) : Prop :=
  bit e' 0 = n ∧ bit e' 1 = z ∧ bit e' 2 = c ∧ bit e' 3 = v ∧ ∀ i, 4 ≤ i → bit e' i = bit e i

/-- ESTAT with N and Z of a result, and every other bit as before (R87). -/
def FlagsNZ (e e' r : Word) : Prop :=
  bit e' 0 = bit r 31 ∧ bit e' 1 = decide (r = 0) ∧ ∀ i, 2 ≤ i → bit e' i = bit e i

/-- The instruction `i` with encoding `e` completes: `r` goes to the registers named in `rd`, N and Z follow `r`, C is
`c` and V is `v`. Hypothesis: OVE = 0 or no overflow (R88). -/
def Adds (s : State) (p : UnitIx) (e : Enc) (i : Instr) (rd : Option Nat) (r : Word) (c v : Bool) : Prop :=
  Issues s p e → (v = true → (s.u p.val).spr.ove = false) →
    ∃ t, exec i s = .next t ∧ OnlyUnit s t p.val ∧
      Steps s t p.val e.len (match rd with
        | some d => withG (s.u p.val) d r
        | none => (s.u p.val).gr) ∧
      FlagsAre (s.u p.val).spr.estat (t.u p.val).spr.estat (bit r 31) (decide (r = 0)) c v

/-- The instruction completes with `r` in `rd` and N and Z of `r`, C and V unchanged. -/
def Bitwise (s : State) (p : UnitIx) (e : Enc) (i : Instr) (rd : Option Nat) (r : Word) : Prop :=
  Issues s p e →
    ∃ t, exec i s = .next t ∧ OnlyUnit s t p.val ∧
      Steps s t p.val e.len (match rd with
        | some d => withG (s.u p.val) d r
        | none => (s.u p.val).gr) ∧
      FlagsNZ (s.u p.val).spr.estat (t.u p.val).spr.estat r

/-- The instruction completes with `r` in `rd` and no flag changed. -/
def Puts (s : State) (p : UnitIx) (e : Enc) (i : Instr) (rd : Nat) (r : Word) : Prop :=
  Issues s p e →
    ∃ t, exec i s = .next t ∧ OnlyUnit s t p.val ∧ Steps s t p.val e.len (withG (s.u p.val) rd r) ∧
      (t.u p.val).spr.estat = (s.u p.val).spr.estat

/-- Carry out of bit 31 of a + b + c, and no borrow of a − b − c. -/
def carryOut (a b : Word) (c : Nat) : Bool := decide (2 ^ 32 ≤ a.toNat + b.toNat + c)
def noBorrow (a b : Word) (c : Nat) : Bool := decide (b.toNat + c ≤ a.toNat)

/-- A signed value that does not fit in 32 bits. -/
def outOfRange (n : Int) : Bool := decide (n < -2 ^ 31 ∨ 2 ^ 31 ≤ n)

/-- C of ESTAT as a number. -/
def cIn (s : State) (p : UnitIx) : Nat := b2n (bit (s.u p.val).spr.estat 2)

/-- A general register of a unit. -/
def gReg {n : Nat} (s : State) (p : UnitIx) (r : BitVec n) : Word := (s.u p.val).gr r.toNat

/-- First source, second source and destination of a register form (R68, R69). -/
def srcA (s : State) (p : UnitIx) : RegForm → Word
  | .c rd _ => gReg s p rd
  | .r f => gReg s p f.rs1
def srcB (s : State) (p : UnitIx) : RegForm → Word
  | .c _ rs => gReg s p rs
  | .r f => gReg s p f.rs2
def dest : RegForm → Nat
  | .c rd _ => rd.toNat
  | .r f => f.rd.toNat

/-! ### Memory -/

/-- The address `a` of unit `p` leads to on-die memory at key `k`: it is aligned to `n`, the bank or region is present and
not being cleared, its arbiter serves the unit in this cycle, and the storage word has good check bits (R60, R94, R228,
R266 to R269, R289). -/
def OnMem (s : State) (p : UnitIx) (a : Word) (n k : Nat) : Prop :=
  a.toNat % n = 0 ∧ s.syn k = 0 ∧
    ((∃ c b, s.target p.val a = .bank c b k ∧ s.bankBusy c b = false ∧ s.grants (arbA c b) (s.portNo p.val) k = true) ∨
     (∃ r off, s.target p.val a = .region r off ∧ regKey r off = k ∧ s.regUp r = true ∧ s.segBusy r off = false ∧
       s.grants (arbM r) (s.regNo p.val r) k = true))

/-- No watchpoint of unit `p` matches the access of kind bit `kb` at `a` with value `v` (R378). -/
def Unwatched (s : State) (p : UnitIx) (kb : Nat) (a v : Word) : Prop := s.wpMatch p.val kb a (some v) = none

/-- Memory reads as before but for `n` bytes from key `k`, and every check bit stands. -/
def Untouched (s t : State) (k n : Nat) : Prop :=
  (∀ i, i < k ∨ k + n ≤ i → t.byte i = s.byte i) ∧ ∀ i, t.syn i = s.syn i

/-- ESTAT of unit `p` is as before. -/
def SameEstat (s t : State) (p : UnitIx) : Prop := (t.u p.val).spr.estat = (s.u p.val).spr.estat

/-- The instruction `i` loads: `v` goes to `rd` from the key `k` of `n` bytes. -/
def Reads (s : State) (p : UnitIx) (e : Enc) (i : Instr) (a : Word) (n k rd : Nat) (v : Word) : Prop :=
  Issues s p e → OnMem s p a n k → Unwatched s p 27 a (w32 (s.leN k n)) →
    ∃ t, exec i s = .next t ∧ OnlyUnitArb s t p.val ∧ Steps s t p.val e.len (withG (s.u p.val) rd v) ∧ SameEstat s t p

/-- The instruction `i` stores the `n` low bytes of `v` at key `k`. -/
def Writes (s : State) (p : UnitIx) (e : Enc) (i : Instr) (a : Word) (n k : Nat) (v : Word) : Prop :=
  Issues s p e → OnMem s p a n k → Unwatched s p 28 a (w32 (v.toNat % 2 ^ (8 * n))) →
    ∃ t, exec i s = .next t ∧ OnlyUnitMem s t p.val ∧ Steps s t p.val e.len (s.u p.val).gr ∧ SameEstat s t p ∧
      t.leN k n = v.toNat % 2 ^ (8 * n) ∧ Untouched s t k n

/-- The atomic `i` writes `v` at key `k` and the old word to `rd`. -/
def Swaps (s : State) (p : UnitIx) (e : Enc) (i : Instr) (a : Word) (k rd : Nat) (v : Word → Word) : Prop :=
  Issues s p e → OnMem s p a 4 k → Unwatched s p 29 a (v (w32 (s.leN k 4))) →
    ∃ t, exec i s = .next t ∧ OnlyUnitMem s t p.val ∧
      Steps s t p.val e.len (withG (s.u p.val) rd (w32 (s.leN k 4))) ∧ SameEstat s t p ∧
      t.leN k 4 = (v (w32 (s.leN k 4))).toNat ∧ Untouched s t k 4

/-! ### Jumps and other completions -/

/-- Unit `p` goes on at `tgt` with the special registers `r`, and nothing else of it changes but the marks of the
instruction stream and of debugging. -/
def JumpsTo (s t : State) (p : UnitIx) (tgt : Word) (r : Spr) : Prop :=
  ∃ d, t.u p.val = { s.u p.val with pc := tgt, spr := r, hq := [], hwOld := [], first := false, wrap := false, dbg := d }

/-- Unit `p` completes sequentially from the unit state `x`, which the instruction has made: only LC, the program counter,
the fetch queue and the marks change on top of it. -/
def EndsFrom (x : UnitSt) (t : State) (p : UnitIx) (len : Nat) : Prop :=
  ∃ hq w d, t.u p.val =
    { x with
      spr := { x.spr with lc := seqLc x }, pc := seqPc x len, stat := .run, hq := hq, hwOld := [], first := false,
      wrap := w, dbg := d }

/-- As `OnlyUnit`, with clusters. -/
def OnlyUnitClu (s t : State) (p : Nat) : Prop :=
  t = { s with units := t.units, regs := t.regs, clus := t.clus } ∧ (∀ q, q ≠ p → t.u q = s.u q) ∧
    (∀ k, k ≠ rkey (pgUnit p) 0x540 → Tab.get (regDef k) t.regs k = Tab.get (regDef k) s.regs k)

/-- The unit has taken an exception (R135, R137): the cause, its values, and the entry. -/
def Entered (s t : State) (p : UnitIx) (code sub : Nat) (epc info bad : Word) : Prop :=
  let x := s.u p.val
  let y := t.u p.val
  y.spr.cause = w32 (sub * 256 + code) ∧ y.spr.epc = epc &&& ~~~1 ∧ y.spr.info = info ∧ y.spr.badaddr = bad ∧
    y.pc = x.spr.ebase ∧ y.spr.ee = false ∧ y.spr.pmode = x.spr.mode ∧ bit y.spr.estat 17 = x.spr.ee ∧
    y.spr.mode = (if code = 0x11 ∨ x.spr.mode = 3 then 3 else 1) ∧
    (∀ i, i < 13 → bit y.spr.estat i = bit x.spr.estat i) ∧ (∀ i, y.gr i = x.gr i) ∧
    y.first = true ∧ y.hq = [] ∧ y.prods = []

/-- Nothing but unit `p` changes. -/
def UnitOnly (s t : State) (p : Nat) : Prop := t = { s with units := t.units } ∧ ∀ q, q ≠ p → t.u q = s.u q

/-- A command completes: it answers a next state. -/
def Answers (s : State) (i : Instr) (t : State) : Prop := exec i s = .next t

/-- The events on their way in each cluster of the region of unit `p` once it has sent `m` to the clusters that `to` names
(R103, R300). -/
def EventsSent (s t : State) (tgt : Nat → Bool) (m : Word) : Prop :=
  ∀ c u, u ∈ (t.c c).sev ↔ u ∈ (s.c c).sev ∨
    (tgt c = true ∧ u < 9 ∧ bit m u = true ∧ ¬(1 ≤ s.uphase c ∧ s.uphase c ≤ 5 ∧ s.rfld (pgNeg c) 0x044 16 3 = u) ∧
      ¬(s.uphase c = 6 ∧ u = 8))

/-! ### Reels -/

/-- Channel `k` of Reel `r` is served in this Reel cycle and evaluates the word `w`: its injected instruction, else its
latched waiting instruction, else the word that program memory holds, clean, at PC (R151, R175, R189, R190). The check
bits of its registers are good (R229). -/
def Serves (s : State) (r : ReelIx) (k : SlotIx) (w : Word) (inj : Bool) (h : Held) : Prop :=
  let x := s.chan r.val k.val
  s.reelUp r.val = true ∧ s.running r.val k.val = true ∧ s.slotNow r.val k.val = true ∧
    (∀ i, Tab.get 0 x.synd i = 0) ∧ h.w = w ∧
    ((inj = true ∧ x.inj = some h) ∨ (inj = false ∧ x.inj = none ∧ x.held = some h) ∨
     (inj = false ∧ x.inj = none ∧ x.held = none ∧ h = { w := w, issued := false, cyc := 0, bnd := false, smp := false } ∧
       ∃ v, s.pmSeen r.val (x.pc / 2) = (.ok, if x.pc % 2 = 0 then (w, v) else (v, w))))

/-- The instruction with its first issue noted (R167). -/
def issuedAt (s : State) (h : Held) : Held := if h.issued then h else { h with cyc := s.rcyc }

/-- The state once the instruction has ended with the effects `t`: an injected one leaves PC, any other goes on at the next
word or at `jmp`; bit I sets the channel's interrupt flag, and the queue conditions are looked at again (R166, R188,
R189). -/
def ended (r : ReelIx) (k : SlotIx) (inj : Bool) (f : RI) (jmp : Option Nat) (t : State) : State :=
  let u := t.onCh r.val k.val fun x =>
    match jmp with
    | some a => { x with inj := none, held := none, pc := a % 512 }
    | none => if inj then { x with inj := none } else { x with held := none, pc := (x.pc + 1) % 512 }
  (if f.i = 1 then u.flag (pgReel r.val) k.val else u).qev r.val

/-- The state while the instruction waits, with the effects `t`. -/
def waiting (s : State) (r : ReelIx) (k : SlotIx) (inj : Bool) (h : Held) (t : State) : State :=
  let g : Held := { issuedAt s h with issued := true }
  (t.onCh r.val k.val fun x => if inj then { x with inj := some g } else { x with held := some g }).qev r.val

/-- The channel stops with the error `code` and the instruction has no effect (R156). -/
def stopped (s : State) (r : ReelIx) (k : SlotIx) (code : Nat) : State := (s.chErr r.val k.val code).qev r.val

/-- The Reel has evaluated an instruction in this Reel cycle (R151). -/
def spent (s : State) (r : ReelIx) : State := s.onR r.val fun x => { x with evalAt := s.rcyc + 1 }

/-- On every served slot that evaluates the legal instruction `op f`, the command answers `t` of the state in which the
Reel's evaluation of this cycle is spent. -/
def Runs (s : State) (r : ReelIx) (k : SlotIx) (op : BitVec 5) (f : RI) (i : Instr) (t : State → Bool → Held → State) :
    Prop :=
  reelLegal op.toNat f = true → ∀ inj h, Serves s r k (encRi op f) inj h → exec i s = .next (t (spent s r) inj h)

/-- The instruction writes `v` to its register D, poisoned if `bad`, and ends; where D is SMPCFG and the value is refused,
the channel stops with CFGBAD (R160, R168, R232). -/
def Sets (s : State) (r : ReelIx) (k : SlotIx) (op : BitVec 5) (f : RI) (i : Instr) (v : Word) (bad : Bool) : Prop :=
  Runs s r k op f i fun s inj _ =>
    match s.setCreg r.val k.val f.d.toNat v bad with
    | some t => ended r k inj f none t
    | none => stopped s r k 3

/-- SR after a bit enters it, to the right when `right` (R155, R167). -/
def shifted (right : Bool) (sr : Word) (b : Bool) : Word :=
  if right then w32 (sr.toNat / 2 + b2n b * 2 ^ 31) else w32 (2 * sr.toNat + b2n b)

/-- A write of a served page by a master that reaches it and that has not locked it (R358, R408, R422); the page has taken
no other access in this cycle, and none waits before (R185, R418), nor any access of the host at the register slave when
the host writes (R408). -/
def WriteReaches (s : State) (m : Master) (page : Nat) : Prop :=
  s.reaches m page = true ∧ s.served page = true ∧ s.rbit (s.physPage page) pgCtl 31 = false ∧ s.pageHeld m page = false

/-- A read of a served page by a master that reaches it; the page has taken no other access in this cycle, and the register
slave holds none when the host reads. -/
def ReadReaches (s : State) (m : Master) (page : Nat) : Prop :=
  s.reaches m page = true ∧ s.served page = true ∧ s.pageHeld m page = false

/-- The state once page `p`, no Reel page, has taken an access in this fabric cycle (R418). -/
def onPage (s : State) (p : Nat) : State := { s with pgs := s.took p }

/-- The state once page `p`, no Reel page, has taken a write of master `m`, which answers the host OK (R408, R418). -/
def wrote (s : State) (m : Master) (p : Nat) : State := { onPage s p with rresp := if m = .host then 0 else s.rresp }

/-- The state `t` with the answer of a read: data `v` and response OKAY (R408). -/
def answered (v : Word) (t : State) : State := { t with rdata := v, rresp := 0 }

end Sys2Proof.Claims
end

