-- ==== Sys2Proof/Certificates/Slice0/Obligations.lean ====
section
/-! DEFINITION. The statements for the provers. -/

namespace Sys2Proof.Claims

open Sys2Proof.Machine

/-- The current fabric cycle is the last before a TBCLK edge that has not come, and the time base runs (R243, R245). -/
def AtEdge (s : State) : Prop :=
  s.awake 263 = true ∧ s.lou.low = false ∧ s.tim.phase = 7 ∧ s.tim.edge = false

/-- A product is issued: it waits behind those issued before, and no register changes (R91). -/
def Multiplies (s : State) (p : UnitIx) (e : Enc) (i : Instr) (d : DWord) : Prop :=
  Issues s p e → ∃ t, exec i s = .next t ∧ OnlyUnit s t p.val ∧
    EndsFrom { s.u p.val with prods := (s.u p.val).prods ++ [d] } t p e.len

/-- A division begins: its operands are kept, and the unit issues nothing meanwhile (R92). -/
def Divides (s : State) (p : UnitIx) (fn : Nat) (f : RF) (i : Instr) : Prop :=
  Issues s p (eR 0x02 (BitVec.ofNat 4 fn) f) → ∃ t, exec i s = .next t ∧ t = { s with units := t.units } ∧
    (∀ q, q ≠ p.val → t.u q = s.u q) ∧
    t.u p.val = { s.u p.val with stat := .divide fn f.rd.toNat (gReg s p f.rs1) (gReg s p f.rs2)
                                    (eR 0x02 (BitVec.ofNat 4 fn) f).info }

/-- Quotient and remainder of R92. -/
def quotient (signed : Bool) (a b : Word) : Word :=
  if b = 0 then (if signed then (if a.toInt < 0 then 0x80000000 else 0x7FFFFFFF) else 0xFFFFFFFF)
  else if signed then BitVec.ofInt 32 (a.toInt.tdiv b.toInt) else w32 (a.toNat / b.toNat)
def remainder (signed : Bool) (a b : Word) : Word :=
  if b = 0 then a else if signed then BitVec.ofInt 32 (a.toInt.tmod b.toInt) else w32 (a.toNat % b.toNat)
/-- Offset of a jump or branch in bytes (R70). -/
def jumpBytes : JumpForm → Int
  | .c o => 2 * o.toInt
  | .j o => 2 * o.toInt
def branchBytes : BranchForm → Int
  | .c _ o => 2 * o.toInt
  | .b _ _ o => 2 * o.toInt
def branchCond : BranchForm → Nat
  | .c c _ => c.toNat
  | .b c _ _ => c.toNat

/-- The address `n` bytes from the program counter. -/
def fromPc (s : State) (p : UnitIx) (n : Int) : Word := BitVec.ofInt 32 ((s.u p.val).pc.toNat + n)

/-- The instruction jumps to `tgt`, and the special registers become `r`. -/
def Jumps (s : State) (p : UnitIx) (e : Enc) (i : Instr) (tgt : Word) (r : Spr) : Prop :=
  Issues s p e → ∃ t, exec i s = .next t ∧ OnlyUnit s t p.val ∧ JumpsTo s t p tgt r

/-- Key of word `w` of the home bank of unit `p` (R54), and the word there may be read or written: its bank is not being
cleared, no atomic of another unit and no borrowed chunk holds the word, and its check bits are good (R266, R268, R286,
R289). -/
def homeKey (s : State) (p : UnitIx) (w : Nat) : Nat := bankKey (cOf p.val) (s.logU p.val % 8 * 0x10000 + 4 * w)
def HomeWord (s : State) (p : UnitIx) (w : Nat) : Prop :=
  s.bankBusy (cOf p.val) (s.logU p.val % 8) = false ∧
    s.grants (arbA (cOf p.val) (s.logU p.val % 8)) (s.portNo p.val) (homeKey s p w) = true ∧ s.syn (homeKey s p w) = 0

/-- A call with all sixteen hardware entries in use spills the oldest to the word below TOP (R56). -/
def Spills (s : State) (p : UnitIx) (e : Enc) (i : Instr) (tgt : Word) : Prop :=
  let r := (s.u p.val).spr
  Issues s p e → r.rs.length = 16 → r.rse = true → r.top ≠ 0 → r.floor ≤ r.top - 1 → r.spilled < 16383 →
    HomeWord s p (r.top - 1) →
    Unwatched s p 28 (w32 (s.logU p.val % 8 * 0x10000 + 4 * (r.top - 1))) (r.rs.getLast?.getD 0) →
    ∃ t, exec i s = .next t ∧ OnlyUnitMem s t p.val ∧
      JumpsTo s t p tgt { r with rs := ((s.u p.val).pc + w32 e.len) :: r.rs.dropLast, spilled := r.spilled + 1,
                                 rsp := (t.u p.val).spr.rsp } ∧
      (t.u p.val).spr.top = r.top - 1 ∧ (t.u p.val).spr.floor = r.floor ∧
      t.leN (homeKey s p (r.top - 1)) 4 = (r.rs.getLast?.getD 0).toNat ∧ Untouched s t (homeKey s p (r.top - 1)) 4

/-- A call that finds no room raises STACK RS_OVER and pushes nothing (R56). -/
def Overflows (s : State) (p : UnitIx) (e : Enc) (i : Instr) : Prop :=
  let r := (s.u p.val).spr
  Issues s p e → (s.u p.val).ee = true → r.rs.length = 16 →
    (r.rse = false ∨ r.top = 0 ∨ r.top * 4 - 4 < r.floor * 4 ∨ 16383 ≤ r.spilled) →
    ∃ t, exec i s = .next t ∧ (t.u p.val).spr.rs = r.rs ∧ (t.u p.val).spr.rsp = r.rsp ∧
      (t.u p.val).spr.cause = 0x10C ∧ (t.u p.val).spr.epc = (s.u p.val).pc &&& ~~~1 ∧ (t.u p.val).pc = r.ebase
/-- Unit `p` has no buffered, outstanding or failed store (R107). -/
def NoStores (s : State) (p : UnitIx) : Prop :=
  (s.u p.val).lates = [] ∧ (s.u p.val).stbuf = [] ∧ s.storesOut p.val = false

/-- Nothing but unit `p` and the checkpoint state of its logical unit changes. -/
def OnlyUnitNg (s t : State) (p : UnitIx) : Prop :=
  t = { s with units := t.units, regs := t.regs } ∧ (∀ q, q ≠ p.val → t.u q = s.u q) ∧
    ∀ k, k ≠ rkey (pgNeg (cOf p.val)) (0x080 + 16 * s.logU p.val) →
      Tab.get (regDef k) t.regs k = Tab.get (regDef k) s.regs k

/-- A block instruction with its three registers distinct and its reserved field 0, which issues (R106). -/
def BlockIssues (s : State) (p : UnitIx) (e : Enc) (f : RF) : Prop :=
  Issues s p e ∧ f.rsv = 0 ∧ sameRegs f = false

/-- After one step of a block instruction the registers are `g`; the instruction ends when the count is 0, and goes on
otherwise (R105, R106). -/
def BlockStep (s t : State) (p : UnitIx) (f : RF) (g : Nat → Word) : Prop :=
  let y := t.u p.val
  (∀ k, y.gr k = g k) ∧ SameEstat s t p ∧
    y = { s.u p.val with
      g := y.g, spr := y.spr, pc := y.pc, hq := y.hq, hwOld := y.hwOld, first := y.first, wrap := y.wrap, dbg := y.dbg } ∧
    if g f.rs2.toNat = 0 then (t.u p.val).pc = seqPc (s.u p.val) 4 ∧ SprSeq (s.u p.val) (t.u p.val)
    else (t.u p.val).pc = (s.u p.val).pc ∧ (t.u p.val).spr = (s.u p.val).spr

/-- The unit `p` waits for the response to host read `r` with the job `j` of an instruction of the base set (R405). -/
def AwaitsHost (s : State) (p : UnitIx) (r : HReq) (j : Job) : Prop :=
  (s.u p.val).stat = .hread j ∧ (s.u p.val).micro = none ∧ r.id = p.val ∧ r.wr = false ∧ r.kind = .read ∧ r.timedOut = false ∧ r.dead = false
/-- The second operand of ALUA and ALUB (R166), and whether it is poisoned. -/
def opnd (s : State) (r : ReelIx) (k : SlotIx) (f : RI) : Word :=
  if f.pin.getLsbD 1 then f.imm.zeroExtend 32 else s.creg r.val k.val f.s.toNat
def opndBad (s : State) (r : ReelIx) (k : SlotIx) (f : RI) : Bool :=
  !f.pin.getLsbD 1 && s.poisoned r.val k.val f.s.toNat

/-- The bits that CRC folds, first bit first (R173). -/
def crcBits (s : State) (r : ReelIx) (k : SlotIx) (f : RI) : List Bool :=
  if f.mode = 0 then [(s.chan r.val k.val).lbit]
  else (List.range (fld f.imm 4 4 + 1)).reverse.map fun i => bit (s.creg r.val k.val f.s.toNat) i

/-- One step of a serial CRC of `w` bits, most significant bit first, with polynomial `p` (R173). -/
def crcFeed (w : Nat) (p d : Nat) (b : Bool) : Nat :=
  if d.testBit (w - 1) == b then 2 * d % 2 ^ w else (2 * d % 2 ^ w) ^^^ (p % 2 ^ w)

/-- An immediate write of pin `j` reaches it: no boundary has applied a pending value to it in this cycle (R170). -/
def PinFree (s : State) (r : ReelIx) (k : SlotIx) (i : Nat) : Prop :=
  ¬((s.chan r.val k.val).bndAt = s.rcyc + 1 ∧ i ∈ (s.chan r.val k.val).bndPins)
/-- A bit-timing set is valid (R159). -/
def ValidSet (s : State) (r : ReelIx) (k : SlotIx) (i : Nat) : Prop := (s.btOf r.val k.val i).ok = true
/-- The fault of a frame at a frame port (R198): 4 a PHY error, unless the frame was too long before it, 3 too long, 1 bad
FCS, 2 too short, 0 none; and the byte that brings it. -/
def rxFault (s : State) (i : Nat) (f : RxFrame) : Nat :=
  match f.phyErr with
  | some n => if s.maxLen i < f.bytes.length ∧ s.maxLen i < n then 3 else 4
  | none => if s.maxLen i < f.bytes.length then 3 else if fcsOk f.bytes = false then 1
      else if f.bytes.length < 64 then 2 else 0
def rxByte (s : State) (i : Nat) (f : RxFrame) : Nat :=
  match f.phyErr with
  | some n => if s.maxLen i < f.bytes.length ∧ s.maxLen i < n then s.maxLen i else min n (f.bytes.length - 1)
  | none => if s.maxLen i < f.bytes.length then s.maxLen i else f.bytes.length - 1

/-- A counter of a frame port has grown by `n` (R197). -/
def FpCounts (s t : State) (i c n : Nat) : Prop :=
  t.count (rkey (pgPort i) (0x080 + 8 * c)) = (s.count (rkey (pgPort i) (0x080 + 8 * c)) + n) % 2 ^ 48

/-- The check that R212 makes of the administrative list, whose length is `n`. -/
def ListGood (s : State) (l : ListId) (n : Nat) : Prop :=
  1 ≤ n ∧ n ≤ listMax l ∧ 32 ≤ s.lCycle l ∧ ∀ j, j < n → rowOk l (s.lrow l false j) = true

/-- The change time of a list: the base time, or the first later start of a cycle that is not before now (R212). -/
def changeTime (s : State) (l : ListId) : Nat :=
  if s.T ≤ s.lBase l then s.lBase l
  else s.lBase l + (s.T - s.lBase l + s.lCycle l - 1) / s.lCycle l * s.lCycle l

/-- The transmit descriptor that stands next in the ring of cluster `c`: its word `i`. -/
def txWord (s : State) (c i : Nat) : Word :=
  w32 (s.leN (bankKey c ((s.reg (pgCommon c) 0x200).toNat +
    32 * (s.rfld (pgCommon c) 0x20C 0 16 % ringSize (s.reg (pgCommon c) 0x204)) + 4 * i)) 4)

/-- `n` bytes of the banks of cluster `c` from `a` lie inside them, port B serves the cluster port at each of their words in
this cycle, and their check bits are good. -/
def BankGood (s : State) (c a n : Nat) : Prop :=
  a % 8 = 0 ∧ a + n ≤ 0x80000 ∧ s.portFrees c a n = true ∧ ∀ i, i < n → s.syn (bankKey c (a + i)) = 0
/-- A write of lock number `n` to SHACQ by unit `p` that makes no request: the Shutter of the cluster and the register SHACQ
alone change (R276, R277). -/
def ShAsked (s t : State) (p : UnitIx) (c : ClusterIx) (n : BitVec 6) : Prop :=
  t = { wrote s (.unit p) (pgShutter c.val) with clus := t.clus, regs := t.regs } ∧
    t.reg (pgShutter c.val) 0x040 = w32 n.toNat ∧
    ∀ k, k ≠ rkey (pgShutter c.val) 0x040 → Tab.get (regDef k) t.regs k = Tab.get (regDef k) s.regs k

/-- The system watchdog counts and its count is 0; and the warm reset that this demands, with every unit in its reset state
(R355, R396). -/
def SwdAtZero (s : State) : Prop := s.rbit pgSafe 0x280 31 = true ∧ s.started = true ∧ s.saf.swd = 0
def SwdBitten (s t : State) : Prop :=
  t.dev.due = true ∧ t.rfld pgSafe 0x040 24 4 = 3 ∧ (∀ p, t.u p = UnitSt.reset 0) ∧ t.mem = s.mem ∧ t.saf.otp = s.saf.otp

/-- No unit, DMA channel, cluster port or die link waits for a memory, and no recovery store waits (R285, R289). -/
def NoWait (s : State) : Prop := s.waiters = [] ∧ s.saf.rcWait = []

/-- Exactly one event of code `code` with the given data entered the log intake, behind all others: none of a higher code
arose in its 16 MHz cycle (R348 to R350). -/
def LoggedOne (s t : State) (code : Nat) (d0 d1 : Word) : Prop :=
  s.saf.intake.length < Config.logIntake → s.logAfter code = [] →
    ∃ e, t.saf.intake = s.saf.intake ++ [e] ∧ e.code = code ∧ e.d0 = d0 ∧ e.d1 = d1 ∧ e.seq = s.saf.seq

/-- No WAKE record of this tick of the slow clock waits in the log intake or has been written (R357). -/
def NewWake (s : State) : Prop :=
  (∀ e, e ∈ s.saf.intake → e.code = 0x50 → slowOf e.cyc ≠ slowOf s.tim.cyc) ∧ s.saf.wakeRec.1 ≠ slowOf s.tim.cyc + 1

/-- The bank `b` of cluster `c` reads 0, and every byte outside the banks `l` of the cluster reads as before. -/
def Zeroed (s t : State) (c : Nat) (l : Nat → Bool) : Prop :=
  (∀ b a, b < 8 → a < 0x10000 → l b = true → t.byte (bankKey c (0x10000 * b + a)) = 0) ∧
  ∀ i, (∀ b, b < 8 → l b = true → i < bankKey c (0x10000 * b) ∨ bankKey c (0x10000 * b) + 0x10000 ≤ i) →
    t.byte i = s.byte i
/-- The Loupe takes frames, and no access of another master waits for its page, which a frame would follow (R365, R418). -/
def FramesAlone (s : State) : Prop := s.loupeOn = true ∧ ∀ q, q ∈ s.pgs.wait → s.physPage q.page ≠ pgLoupe

/-- A frame is answered `n` and does nothing else: a RD frame with data 0, a WR frame without data (R365). -/
def refusedRd (s : State) (n : Nat) : State :=
  { s with lou := { s.lou with status := n, rdata := 0, frame := none, resp := respBits n (some 0) } }
def refusedWr (s : State) (n : Nat) : State :=
  { s with lou := { s.lou with status := n, rdata := 0, frame := none, resp := respBits n none } }

/-- The frame is answered OK, and memory, power state and clusters are as before. -/
def FrameDone (s t : State) : Prop :=
  t.lou.status = 0 ∧ t.lou.frame = none ∧ t.mem = s.mem ∧ t.pw = s.pw ∧ t.clus = s.clus
/-- Nothing of the parts is changed by a power or reset request but the power state and registers. -/
def PowerOnly (s : State) (m : Master) (t : State) : Prop := t = { wrote s m pgPower with pw := t.pw, regs := t.regs }

/-- No step of the transition in progress lies in the scope of a reset, and the state is that of a part that runs. -/
def ScopeFree (s : State) (kind i : Nat) : Prop := ∀ t, t ∈ s.pw.steps → s.inScope kind i t.dom = false

/-- The page is of a type whose soft reset acts on its registers alone. -/
def PlainReset (k : PK) : Prop := k ∉ [PK.reel, .fport, .safe, .time, .egts, .shutter, .unit, .neg]

/-- The region memory of `r` answers link `j` at offset `o`: it runs, its segment is clear, nothing waits before, its port
grants the link's traffic in this cycle, and the check bits are good (R26, R37, R265, R269, R289). -/
def RegionAnswers (s : State) (j : Fin 3) (r o : Nat) : Prop :=
  s.regUp r = true ∧ s.segBusy r o = false ∧ s.grants (arbM r) (0x28 + j.val) (regKey r o) = true ∧
    (s.l j.val).wait = [] ∧ s.syn (regKey r o) = 0

/-- The byte lane `b` of a doubleword. -/
def lane (d : DWord) (b : Nat) : Byte := BitVec.ofNat 8 (fld d (8 * b) 8)
/-- The bits of ESTAT that R47 compares: RSE, EE, MODE, PEE and PMODE. -/
def guardedBits : List Nat := [12, 13, 14, 15, 17, 18, 19]

/-- The list whose schedule parameters the entry `idx` of stage 3 or 8 holds (R205), and the check of R212 for the
parameters that `v` writes there. -/
def paramList (st idx : Nat) : ListId :=
  if st = 3 then .gate (BitVec.ofNat 7 idx).toFin else .port (BitVec.ofNat 4 idx).toFin
def ParamsGood (s : State) (l : ListId) (v : Nat → Word) : Prop :=
  1 ≤ fld (v 0) 0 9 ∧ fld (v 0) 0 9 ≤ listMax l ∧ 32 ≤ (v 1).toNat ∧
    ∀ j, j < fld (v 0) 0 9 → rowOk l (s.lrow l false j) = true

/-- Of the tables nothing changes but entry `idx` of stage `st`, and no register changes. -/
def OnlyEntry (s t : State) (m : Master) (st idx : Nat) : Prop :=
  t = { wrote s m (pgStage st) with tbl := t.tbl, fp := t.fp, regs := t.regs } ∧
    (∀ k, Tab.get (regDef k) t.regs k = Tab.get (regDef k) s.regs k) ∧
    ∀ st' idx' w, idx' < 0x10000 → w < 32 → (st' ≠ st ∨ idx' ≠ idx ∨ (tblWords st idx).getD 0 ≤ w) →
      t.tw st' idx' w = s.tw st' idx' w

/-- A table write is refused: TCMD.ERR, and nothing else changes (R205, R206). -/
def TableErr (s t : State) (m : Master) (st : Nat) : Prop :=
  t = { wrote s m (pgStage st) with regs := t.regs } ∧ t.rbit (pgStage st) 0x044 31 = true ∧
    ∀ k, k ≠ rkey (pgStage st) 0x044 → Tab.get (regDef k) t.regs k = Tab.get (regDef k) s.regs k

/-- An encoding of the length that bit 15 of its first halfword gives (R65). -/
def EncShape (e : Enc) : Prop :=
  match e with
  | .c16 h => bit h 15 = false
  | .w32 i => bit i 15 = true
/-- ADD, SUB, ADC, SBC, NEG and ADDI (R87, R89). -/
def ArithmeticA : Prop :=
  (∀ s p f, regBad f = false →
    Adds s p (encReg 1 1 0x01 0 f) (.add p f) (some (dest f)) (srcA s p f + srcB s p f)
      (carryOut (srcA s p f) (srcB s p f) 0)
      (outOfRange ((srcA s p f).toInt + (srcB s p f).toInt))) ∧
  (∀ s p f, regBad f = false →
    Adds s p (encReg 1 2 0x01 1 f) (.sub p f) (some (dest f)) (srcA s p f - srcB s p f)
      (noBorrow (srcA s p f) (srcB s p f) 0)
      (outOfRange ((srcA s p f).toInt - (srcB s p f).toInt))) ∧
  (∀ s p (f : RF), f.rsv = 0 →
    Adds s p (eR 0x01 2 f) (.adc p f) (some f.rd.toNat)
      (gReg s p f.rs1 + gReg s p f.rs2 + w32 (cIn s p))
      (carryOut (gReg s p f.rs1) (gReg s p f.rs2) (cIn s p))
      (outOfRange ((gReg s p f.rs1).toInt + (gReg s p f.rs2).toInt + cIn s p))) ∧
  (∀ s p (f : RF), f.rsv = 0 →
    Adds s p (eR 0x01 3 f) (.sbc p f) (some f.rd.toNat)
      (gReg s p f.rs1 - gReg s p f.rs2 - w32 (1 - cIn s p))
      (noBorrow (gReg s p f.rs1) (gReg s p f.rs2) (1 - cIn s p))
      (outOfRange ((gReg s p f.rs1).toInt - (gReg s p f.rs2).toInt - (1 - cIn s p : Nat)))) ∧
  (∀ s p rd rs,
    Adds s p (encReg 1 7 0x01 15 (.c rd rs)) (.neg p (.c rd rs)) (some rd.toNat) (0 - gReg s p rs)
      (noBorrow 0 (gReg s p rs) 0) (outOfRange (0 - (gReg s p rs).toInt))) ∧
  (∀ s p (f : RF), f.rsv = 0 → f.rs2 = 0 →
    Adds s p (encReg 1 7 0x01 15 (.r f)) (.neg p (.r f)) (some f.rd.toNat) (0 - gReg s p f.rs1)
      (noBorrow 0 (gReg s p f.rs1) 0) (outOfRange (0 - (gReg s p f.rs1).toInt))) ∧
  (∀ s p rd v,
    Adds s p (encAddi (.c rd v)) (.addi p (.c rd v)) (some rd.toNat)
      (gReg s p rd + v.signExtend 32) (carryOut (gReg s p rd) (v.signExtend 32) 0)
      (outOfRange ((gReg s p rd).toInt + v.toInt))) ∧
  (∀ s p (f : IF),
    Adds s p (encAddi (.i f)) (.addi p (.i f)) (some f.rd.toNat)
      (gReg s p f.rs1 + f.imm.signExtend 32) (carryOut (gReg s p f.rs1) (f.imm.signExtend 32) 0)
      (outOfRange ((gReg s p f.rs1).toInt + f.imm.toInt)))

/-- CMP, CMPI and TST (R87, R89). -/
def ArithmeticB : Prop :=
  (∀ s p f, regBadRd f = false →
    Adds s p (encReg 1 6 0x01 12 f) (.cmp p f) none (srcA s p f - srcB s p f)
      (noBorrow (srcA s p f) (srcB s p f) 0)
      (outOfRange ((srcA s p f).toInt - (srcB s p f).toInt))) ∧
  (∀ s p (f : IF), f.rd = 0 →
    Adds s p (eI 0x08 f) (.cmpi p f) none (gReg s p f.rs1 - f.imm.signExtend 32)
      (noBorrow (gReg s p f.rs1) (f.imm.signExtend 32) 0)
      (outOfRange ((gReg s p f.rs1).toInt - f.imm.toInt))) ∧
  (∀ s p (rd rs : BitVec 4),
    Bitwise s p (e16 2 rd rs 6) (.tst p rd rs) none (gReg s p rd &&& gReg s p rs))

/-- The instruction `i` with encoding `e` is a sum, a difference or a compare whose signed result does not fit in 32 bits
(R87, R89). -/
def Overflowing (s : State) (p : UnitIx) (i : Instr) (e : Enc) : Prop :=
  (∃ f, i = .add p f ∧ e = encReg 1 1 0x01 0 f ∧ regBad f = false ∧
    outOfRange ((srcA s p f).toInt + (srcB s p f).toInt) = true) ∨
  (∃ f, i = .sub p f ∧ e = encReg 1 2 0x01 1 f ∧ regBad f = false ∧
    outOfRange ((srcA s p f).toInt - (srcB s p f).toInt) = true) ∨
  (∃ f : RF, i = .adc p f ∧ e = eR 0x01 2 f ∧ f.rsv = 0 ∧
    outOfRange ((gReg s p f.rs1).toInt + (gReg s p f.rs2).toInt + cIn s p) = true) ∨
  (∃ f : RF, i = .sbc p f ∧ e = eR 0x01 3 f ∧ f.rsv = 0 ∧
    outOfRange ((gReg s p f.rs1).toInt - (gReg s p f.rs2).toInt - (1 - cIn s p : Nat)) = true) ∨
  (∃ rd rs, i = .neg p (.c rd rs) ∧ e = encReg 1 7 0x01 15 (.c rd rs) ∧
    outOfRange (0 - (gReg s p rs).toInt) = true) ∨
  (∃ f : RF, i = .neg p (.r f) ∧ e = encReg 1 7 0x01 15 (.r f) ∧ f.rsv = 0 ∧ f.rs2 = 0 ∧
    outOfRange (0 - (gReg s p f.rs1).toInt) = true) ∨
  (∃ rd v, i = .addi p (.c rd v) ∧ e = encAddi (.c rd v) ∧ outOfRange ((gReg s p rd).toInt + v.toInt) = true) ∨
  (∃ f : IF, i = .addi p (.i f) ∧ e = encAddi (.i f) ∧ outOfRange ((gReg s p f.rs1).toInt + f.imm.toInt) = true) ∨
  (∃ f, i = .cmp p f ∧ e = encReg 1 6 0x01 12 f ∧ regBadRd f = false ∧
    outOfRange ((srcA s p f).toInt - (srcB s p f).toInt) = true) ∨
  (∃ f : IF, i = .cmpi p f ∧ e = eI 0x08 f ∧ f.rd = 0 ∧ outOfRange ((gReg s p f.rs1).toInt - f.imm.toInt) = true)

/-- AND, OR, XOR, ANDN, ANDI, ORI and XORI (R87, R89). -/
def LogicA : Prop :=
  (∀ s p f, regBad f = false →
    Bitwise s p (encReg 1 3 0x01 4 f) (.and p f) (some (dest f)) (srcA s p f &&& srcB s p f)) ∧
  (∀ s p f, regBad f = false →
    Bitwise s p (encReg 1 4 0x01 5 f) (.or p f) (some (dest f)) (srcA s p f ||| srcB s p f)) ∧
  (∀ s p f, regBad f = false →
    Bitwise s p (encReg 1 5 0x01 6 f) (.xor p f) (some (dest f)) (srcA s p f ^^^ srcB s p f)) ∧
  (∀ s p (f : RF), f.rsv = 0 →
    Bitwise s p (eR 0x01 7 f) (.andn p f) (some f.rd.toNat) (gReg s p f.rs1 &&& ~~~(gReg s p f.rs2))) ∧
  (∀ s p (f : IF),
    Bitwise s p (eI 0x04 f) (.andi p f) (some f.rd.toNat) (gReg s p f.rs1 &&& f.imm.zeroExtend 32)) ∧
  (∀ s p (f : IF),
    Bitwise s p (eI 0x05 f) (.ori p f) (some f.rd.toNat) (gReg s p f.rs1 ||| f.imm.zeroExtend 32)) ∧
  (∀ s p (f : IF),
    Bitwise s p (eI 0x06 f) (.xori p f) (some f.rd.toNat) (gReg s p f.rs1 ^^^ f.imm.zeroExtend 32))

/-- SHL, SHR, SAR and ROR in all four forms (R90): a count of 32 or more shifts every bit out, or fills with the sign,
and a rotation takes the count modulo 32. -/
def LogicB : Prop :=
  let shl := fun (a : Word) (n : Nat) => w32 (a.toNat * 2 ^ n)
  let shr := fun (a : Word) (n : Nat) => w32 (a.toNat / 2 ^ n)
  let sar := fun (a : Word) (n : Nat) => BitVec.ofInt 32 (a.toInt / 2 ^ n)
  let ror := fun (a : Word) (n : Nat) => w32 (a.toNat / 2 ^ (n % 32)) ||| w32 (a.toNat * 2 ^ (32 - n % 32))
  let low := fun (w : Word) => w.toNat % 256
  let all := fun (n : BitVec 2) (i : UnitIx → ShiftForm → Instr) (o : Word → Nat → Word) =>
    (∀ s p rd rs, Bitwise s p (encShift n (.c rd rs)) (i p (.c rd rs)) (some rd.toNat)
      (o (gReg s p rd) (low (gReg s p rs)))) ∧
    (∀ s p (f : RF), f.rsv = 0 → Bitwise s p (encShift n (.r f)) (i p (.r f)) (some f.rd.toNat)
      (o (gReg s p f.rs1) (low (gReg s p f.rs2)))) ∧
    (∀ s p rd sh, Bitwise s p (encShift n (.cs rd sh)) (i p (.cs rd sh)) (some rd.toNat)
      (o (gReg s p rd) sh.toNat)) ∧
    (∀ s p rs1 rd sh, Bitwise s p (encShift n (.i rs1 rd 0 sh)) (i p (.i rs1 rd 0 sh)) (some rd.toNat)
      (o (gReg s p rs1) sh.toNat))
  all 0 .shl shl ∧ all 1 .shr shr ∧ all 2 .sar sar ∧ all 3 .ror ror

/-- SW, SH, SB and PUSH on memory that is present and clean (R93, R94, R96). -/
def StoresA : Prop :=
  (∀ s p f k, Writes s p (encWord 7 0x15 f) (.sw p f) (wordOps (s.u p.val) f).1 4 k
    ((s.u p.val).gr (wordOps (s.u p.val) f).2)) ∧
  (∀ s p f k, Writes s p (encSub 2 0x16 f) (.sh p f) (subOps (s.u p.val) 2 f).1 2 k
    ((s.u p.val).gr (subOps (s.u p.val) 2 f).2)) ∧
  (∀ s p f k, Writes s p (encSub 3 0x17 f) (.sb p f) (subOps (s.u p.val) 1 f).1 1 k
    ((s.u p.val).gr (subOps (s.u p.val) 1 f).2)) ∧
  (∀ s p (rs : BitVec 4) k, Issues s p (e16 0xD rs 7 0) → OnMem s p ((s.u p.val).spr.dsp - 4) 4 k →
    Unwatched s p 28 ((s.u p.val).spr.dsp - 4) (gReg s p rs) →
    ∃ t, exec (.push p rs 0) s = .next t ∧ OnlyUnitMem s t p.val ∧
      EndsFrom ((s.u p.val).setS fun r => { r with dsp := r.dsp - 4 }) t p 2 ∧
      t.leN k 4 = (gReg s p rs).toNat ∧ Untouched s t k 4)

/-- AMOADD and AMOSWP on memory that is present and clean (R97). -/
def StoresB : Prop :=
  (∀ s p f k, amoBad f = false → Swaps s p (encAmo 0 f) (.amoadd p f) (amoOps (s.u p.val) f).1 k
    (amoOps (s.u p.val) f).2.2 fun w => w + (amoOps (s.u p.val) f).2.1) ∧
  (∀ s p f k, amoBad f = false → Swaps s p (encAmo 1 f) (.amoswp p f) (amoOps (s.u p.val) f).1 k
    (amoOps (s.u p.val) f).2.2 fun _ => (amoOps (s.u p.val) f).2.1)

/-- An instruction that the fetch queue does not hold is read first, the unit taking its cycle of the memory, and then runs
as from the queue, where the read has put it (R82 to R84, R266, R269, R270); that a command which names another instruction
than the one fetched does nothing is the model's choice (log entry 2). -/
def FetchedFirst : Prop :=
  (∀ (s t : State) i p e, encOf i = some (p, e) → wellFormed i = true → s.ready p.val = true → t.ready p.val = true →
    s.fetch p.val e = .ok t → t.fetch p.val e = .ok t → exec i s = exec i t) ∧
  (∀ (s : State) (p : UnitIx) k, (s.u p.val).wrap = false → (s.u p.val).hq = [] →
    s.fetchKey p.val (s.u p.val).pc = some k → s.syn k = 0 →
    (∀ h : Half, s.leN k 2 = h.toNat → ∃ t, s.fetch p.val (.c16 h) = .ok t ∧ OnlyUnitArb s t p.val ∧
      t.u p.val = { s.u p.val with hq := [⟨(s.u p.val).pc, h, s.cxOf p.val h⟩] } ∧ t.fetch p.val (.c16 h) = .ok t) ∧
    ∀ i h, encOf i = some (p, .c16 h) → s.leN k 2 ≠ h.toNat → s.ready p.val = true → exec i s = .next s)

/-- B.cond, J, JR and LOOP (R70, R74, R99, R100); a JR to an odd address raises ALIGN instead. -/
def BranchesA : Prop :=
  (∀ s p f, branchBad f = false → condHolds (branchCond f) (s.u p.val).spr.estat = true →
    Jumps s p (encBranch f) (.bCond p f) (fromPc s p (branchBytes f)) (s.u p.val).spr) ∧
  (∀ s p f, branchBad f = false → condHolds (branchCond f) (s.u p.val).spr.estat = false → Issues s p (encBranch f) →
    ∃ t, exec (.bCond p f) s = .next t ∧ OnlyUnit s t p.val ∧ EndsFrom (s.u p.val) t p (encBranch f).len) ∧
  (∀ s p f, Jumps s p (encJump 0xB 0x21 f) (.j p f) (fromPc s p (jumpBytes f)) (s.u p.val).spr) ∧
  (∀ s p f, jrBad f = false → bit (jrOps (s.u p.val) f) 0 = false →
    Jumps s p (encJr 5 0 f) (.jr p f) (jrOps (s.u p.val) f) (s.u p.val).spr) ∧
  (∀ s p (f : IF), f.rd = 0 → 2 ≤ f.imm.toNat → Issues s p (eI 0x24 f) →
    ∃ t w, exec (.loop p f) s = .next t ∧ OnlyUnit s t p.val ∧
      ∃ hq d, t.u p.val = { s.u p.val with
        spr := { (s.u p.val).spr with lc := gReg s p f.rs1, ls := (s.u p.val).pc + 4,
                                      le := (s.u p.val).pc + w32 (2 * f.imm.toNat) },
        pc := (s.u p.val).pc + 4, hq := hq, hwOld := [], first := false, wrap := w, dbg := d })

/-- What the condition codes of R74 say after the flags of a compare (R87). -/
def BranchesB : Prop :=
  ∀ e f a b : Word,
    FlagsAre e f (bit (a - b) 31) (decide (a - b = 0)) (noBorrow a b 0) (outOfRange (a.toInt - b.toInt)) →
    condHolds 0x0 f = true ∧ condHolds 0x1 f = decide (a = b) ∧ condHolds 0x2 f = decide (a ≠ b) ∧
    condHolds 0x3 f = decide (b.toNat ≤ a.toNat) ∧ condHolds 0x4 f = decide (a.toNat < b.toNat) ∧
    condHolds 0x5 f = decide (b.toNat < a.toNat) ∧ condHolds 0x6 f = decide (a.toNat ≤ b.toNat) ∧
    condHolds 0x7 f = decide (b.toInt ≤ a.toInt) ∧ condHolds 0x8 f = decide (a.toInt < b.toInt) ∧
    condHolds 0x9 f = decide (b.toInt < a.toInt) ∧ condHolds 0xA f = decide (a.toInt ≤ b.toInt)

/-- CALL, CALLR and RET with the rows of R56 that push, spill, overflow, pop and fill. -/
def ReturnStackA : Prop :=
  (∀ s p f, let e := encJump 0xC 0x22 f
    ((s.u p.val).spr.rs.length < 16 → Jumps s p e (.call p f) (fromPc s p (jumpBytes f))
      { (s.u p.val).spr with rs := ((s.u p.val).pc + w32 e.len) :: (s.u p.val).spr.rs }) ∧
    Spills s p e (.call p f) (fromPc s p (jumpBytes f)) ∧ Overflows s p e (.call p f)) ∧
  (∀ s p f, let e := encJr 6 1 f
    jrBad f = false → bit (jrOps (s.u p.val) f) 0 = false →
    ((s.u p.val).spr.rs.length < 16 → Jumps s p e (.callr p f) (jrOps (s.u p.val) f)
      { (s.u p.val).spr with rs := ((s.u p.val).pc + w32 e.len) :: (s.u p.val).spr.rs }) ∧
    Spills s p e (.callr p f) (jrOps (s.u p.val) f) ∧ Overflows s p e (.callr p f)) ∧
  (∀ s (p : UnitIx) a l, (s.u p.val).spr.rs = a :: l →
    Jumps s p (e16 0xD 0 1 0) (.ret p 0 0) a { (s.u p.val).spr with rs := l }) ∧
  (∀ (s : State) (p : UnitIx), let r := (s.u p.val).spr
    let v := s.leN (homeKey s p r.top) 4
    Issues s p (e16 0xD 0 1 0) → r.rs = [] → r.rse = true → r.spilled ≠ 0 → HomeWord s p r.top → v % 2 = 0 →
    Unwatched s p 27 (w32 (s.logU p.val % 8 * 0x10000 + 4 * r.top)) (w32 v) →
    ∃ t, exec (.ret p 0 0) s = .next t ∧ OnlyUnitArb s t p.val ∧
      JumpsTo s t p (w32 v) { r with spilled := r.spilled - 1, rsp := (t.u p.val).spr.rsp } ∧
      (t.u p.val).spr.top = (r.top + 1) % 2 ^ 14 ∧ (t.u p.val).spr.floor = r.floor)

/-- FLUSH with room in the spill area (R56, R57); the watchpoints are off. -/
def ReturnStackB : Prop :=
  ∀ (s : State) (p : UnitIx) f, let r := (s.u p.val).spr
    let v := (s.u p.val).gr (sprOps f).2
    sprBad f = false → (sprOps f).1 = 3 → bit v 31 = true → (s.u p.val).mode ≠ 0 → Issues s p (encSpr 1 1 f) →
    r.rs.length ≤ 16 → r.rs.length ≤ r.top → r.floor + r.rs.length ≤ r.top → fld v 16 14 + r.rs.length ≤ 16383 →
    (∀ w, w < r.top → HomeWord s p w) → (∀ a x, Unwatched s p 28 a x) →
    ∃ t, exec (.mts p f) s = .next t ∧ OnlyUnitMem s t p.val ∧ (t.u p.val).spr.rs = [] ∧
      (t.u p.val).spr.spilled = fld v 16 14 + r.rs.length ∧ (t.u p.val).spr.top = r.top - r.rs.length ∧
      (t.u p.val).spr.floor = r.floor ∧ (∀ k, (t.u p.val).gr k = (s.u p.val).gr k) ∧
      (∀ i (h : i < r.rs.length), t.leN (homeKey s p (r.top - r.rs.length + i)) 4 = (r.rs[i]).toNat) ∧
      Untouched s t (homeKey s p (r.top - r.rs.length)) (4 * r.rs.length)

/-- TRAP with EE = 1 and ERET between modes other than out of M (R109, R110, R135, R137). -/
def TrapAndReturnA : Prop :=
  (∀ (s : State) (p : UnitIx) f, trapBad f = false → (s.u p.val).ee = true → Issues s p (encTrap f) →
    ∃ t, exec (.trap p f) s = .next t ∧
      Entered s t p 0x01 0 (seqPc (s.u p.val) (encTrap f).len) (w32 (trapN f)) 0 ∧
      (t.u p.val).spr.lc = seqLc (s.u p.val)) ∧
  (∀ (s : State) (p : UnitIx) f, let x := s.u p.val
    sysBad f = false → x.mode ≠ 0 → (x.mode = 1 → x.spr.pmode ≠ 3) → Issues s p (encSys 2 2 f) →
    ∃ t, exec (.eret p f) s = .next t ∧ (t.u p.val).pc = x.spr.epc ∧ (t.u p.val).mode = x.spr.pmode ∧
      (t.u p.val).ee = bit x.spr.estat 17 ∧ (t.u p.val).hq = [] ∧ (t.u p.val).prods = [] ∧ (t.u p.val).g = x.g ∧
      (∀ i, i ≠ 13 → i ≠ 14 → i ≠ 15 → bit (t.u p.val).spr.estat i = bit x.spr.estat i) ∧
      (x.mode ≠ 3 → OnlyUnit s t p.val ∧
        ((t.u p.val).spr.mh ++ (t.u p.val).spr.ml : DWord) = (x.prods.getLast?).getD (x.spr.mh ++ x.spr.ml)))

/-- TLBINV, TLBINV.ALL, which the unit notes for a fill of the same cycle (R313), NOP, and the refusals of R76 with EE = 1
(R77, R111, R112, R135). -/
def TrapAndReturnB : Prop :=
  (∀ (s : State) (p : UnitIx) (f : RF), let x := s.u p.val
    f.rsv = 0 → f.rd = 0 → f.rs2 = 0 → x.mode ≠ 0 → Issues s p (eR 0x25 5 f) →
    ∃ t, exec (.tlbinv p f) s = .next t ∧ OnlyUnit s t p.val ∧
      EndsFrom { x with
        tlb := x.tlb.filter fun e => !(bit (gReg s p f.rs1) 31 && decide (e.2.vpn = (gReg s p f.rs1).extractLsb' 12 20))
        inv := if bit (gReg s p f.rs1) 31 then
            (x.inv.filter fun q => decide (q.1 = s.tim.cyc)) ++ [(s.tim.cyc, some (fld (gReg s p f.rs1) 12 20))]
          else x.inv }
        t p 4 ∧ (t.u p.val).hq = []) ∧
  (∀ (s : State) (p : UnitIx) (f : RF), let x := s.u p.val
    f.rsv = 0 → f.rd = 0 → f.rs1 = 0 → f.rs2 = 0 → x.mode ≠ 0 → Issues s p (eR 0x25 6 f) →
    ∃ t, exec (.tlbinvAll p f) s = .next t ∧ OnlyUnit s t p.val ∧
      EndsFrom { x with
        tlb := [], inv := (x.inv.filter fun q => decide (q.1 = s.tim.cyc)) ++ [(s.tim.cyc, none)] } t p 4 ∧
      (t.u p.val).hq = []) ∧
  (∀ (s : State) (p : UnitIx) f, sysBad f = false → Issues s p (encNop (.sys f)) →
    ∃ t, exec (.nop p (.sys f)) s = .next t ∧ OnlyUnit s t p.val ∧ EndsFrom (s.u p.val) t p (encNop (.sys f)).len) ∧
  (∀ (s : State) (p : UnitIx) e, (s.u p.val).ee = true → Issues s p e →
    ∃ t, exec (.nop p (.raw e)) s = .next t ∧ Entered s t p 0x02 0 (s.u p.val).pc e.info (s.u p.val).pc) ∧
  (∀ (s : State) (p : UnitIx) f, sysBad f = true → (s.u p.val).ee = true → Issues s p (encNop (.sys f)) →
    ∃ t, exec (.nop p (.sys f)) s = .next t ∧
      Entered s t p 0x02 1 (s.u p.val).pc (encNop (.sys f)).info (s.u p.val).pc)

/-- EXCEPTION_ENTRY and UIRQ_SOURCE_PENDING (R134, R135, R137, R141, R143 to R145, R150). -/
def ExceptionEntryOrderA : Prop :=
  (∀ (s : State) (p : UnitIx), let x := s.u p.val
    s.entryPoint p.val = true → ∃ t, exec (.exceptionEntry p) s = .next t ∧
      (∀ n a, x.dbg.wp = some (n, a) → Entered s t p 0x11 2 x.pc (w32 n) a ∧ (t.u p.val).dbg.wp = none) ∧
      (x.dbg.wp = none → x.dbg.req = true → Entered s t p 0x11 1 x.pc 0 0) ∧
      (∀ n, x.dbg.wp = none → x.dbg.req = false → x.dbg.wdw = some n →
        Entered s t p 0x12 0 x.pc (w32 n) 0 ∧ (t.u p.val).dbg.wdw = none) ∧
      (∀ a code l, x.dbg.wp = none → x.dbg.req = false → x.dbg.wdw = none → x.lates = (a, code) :: l →
        Entered s t p 0x0E 0 x.pc (w32 (l.length * 256 + code)) a ∧ (t.u p.val).lates = l) ∧
      (∀ i, x.dbg.wp = none → x.dbg.req = false → x.dbg.wdw = none → x.lates = [] → s.srcBest p.val = some i →
        let v := s.reg (pgUnit p.val) (0x200 + 4 * i)
        Entered s t p 0x0F 0 x.pc (w32 (fld v 0 14 * 2 ^ 16 + fld v 24 4 * 256 + i)) 0)) ∧
  (∀ (s : State) (p : UnitIx) (i : Fin 32), (s.u p.val).stat ≠ .wfe →
    ∃ t, exec (.uirqSourcePending p i) s = .next t ∧ UnitOnly s t p.val ∧
      t.u p.val = { s.u p.val with irq := (t.u p.val).irq } ∧
      ∀ j, bit (t.u p.val).irq j =
        if j = i.val then s.summary (s.rfld (pgUnit p.val) (0x200 + 4 * i.val) 0 14) else bit (s.u p.val).irq j)

/-- Lockup on a synchronous cause with EE = 0 (R134, R146, R147). -/
def ExceptionEntryOrderB : Prop :=
  ∀ (s : State) (p : UnitIx) e, (s.u p.val).ee = false → Issues s p e →
    ∃ t, exec (.nop p (.raw e)) s = .next t ∧ (t.u p.val).locked = true ∧ t.ready p.val = false ∧
      (t.u p.val).g = (s.u p.val).g ∧ (t.u p.val).spr = (s.u p.val).spr ∧ (t.u p.val).pc = (s.u p.val).pc ∧
      t.reg (pgUnit p.val) 0x2A0 = w32 (2 ^ 31 + b2n (s.u p.val).first * 2 ^ 30 + 0x02 * 2 ^ 16) ∧
      t.reg (pgUnit p.val) 0x2A4 = (s.u p.val).pc ∧ t.reg (pgUnit p.val) 0x2A8 = (s.u p.val).pc ∧
      t.reg (pgUnit p.val) 0x2AC = e.info ∧ t.rbit (pgUnit p.val) pgRaw 0 = true ∧ t.mem = s.mem ∧
      ∀ q, q ≠ p.val → t.u q = s.u q

/-- What a write of a channel register does (R154, R168, R232). -/
def ReelRegisterFileA : Prop :=
  ∀ (s t : State) (r : ReelIx) (k : SlotIx) d v bad, d < 7 → s.setCreg r.val k.val d v bad = some t →
    t.creg r.val k.val d = (if d = 5 then v &&& 0xFFFF else if d = 6 then 0 else v) ∧
    (d < 6 → t.poisoned r.val k.val d = bad) ∧
    (∀ i, i < 8 → i ≠ d → t.creg r.val k.val i = s.creg r.val k.val i) ∧
    (∀ i, i ≠ d → t.poisoned r.val k.val i = s.poisoned r.val k.val i) ∧
    t = { s with reels := t.reels } ∧ ∀ q j, (q ≠ r.val ∨ j ≠ k.val) → t.chan q j = s.chan q j

/-- LDI, LDHI, MOV, ALUA, ALUB, CRC and TSTAMP (R166 to R168, R173, R232). -/
def ReelRegisterFileB : Prop :=
  (∀ s r k f, Sets s r k 0x01 f (.ldi r k f) (if f.mode = 1 then f.imm.signExtend 32 else f.imm.zeroExtend 32) false) ∧
  (∀ s r k f, let d := s.creg r.val k.val f.d.toNat
    Sets s r k 0x02 f (.ldhi r k f) (w32 (f.imm.toNat * 2 ^ 16 + d.toNat % 2 ^ 16))
      (s.poisoned r.val k.val f.d.toNat)) ∧
  (∀ s r k f, Sets s r k 0x03 f (.reelMov r k f) (s.creg r.val k.val f.s.toNat)
    (s.poisoned r.val k.val f.s.toNat)) ∧
  (∀ s r k f, let a := s.creg r.val k.val f.d.toNat
    let b := opnd s r k f
    let bad := opndBad s r k f || s.poisoned r.val k.val f.d.toNat
    let n := b.toNat % 256
    (f.mode = 0 → Sets s r k 0x04 f (.alua r k f) (a + b) bad ∧ Sets s r k 0x05 f (.alub r k f) (a ^^^ b) bad) ∧
    (f.mode = 1 → Sets s r k 0x04 f (.alua r k f) (a - b) bad ∧
      Sets s r k 0x05 f (.alub r k f) (w32 (a.toNat * 2 ^ n)) bad) ∧
    (f.mode = 2 → Sets s r k 0x04 f (.alua r k f) (a &&& b) bad ∧
      Sets s r k 0x05 f (.alub r k f) (w32 (a.toNat / 2 ^ n)) bad) ∧
    (f.mode = 3 → Sets s r k 0x04 f (.alua r k f) (a ||| b) bad ∧
      Sets s r k 0x05 f (.alub r k f) (w32 (a.toNat / 2 ^ (n % 32)) ||| w32 (a.toNat * 2 ^ (32 - n % 32))) bad)) ∧
  (∀ s r k f, let n := fld f.imm 0 2
    let w := s.rfld (pgReel r.val) 0x060 (8 * n) 5 + 1
    let d := s.creg r.val k.val f.d.toNat
    Sets s r k 0x12 f (.crc r k f)
      (w32 ((crcBits s r k f).foldl (crcFeed w (s.reg (pgReel r.val) (0x050 + 4 * n)).toNat) d.toNat))
      (s.poisoned r.val k.val f.d.toNat)) ∧
  (∀ s r k f, let x := s.chan r.val k.val
    Sets s r k 0x14 f (.tstamp r k f) (match f.mode.toNat with
      | 0 => w32 x.edgeTs.toNat
      | 1 => w32 (x.edgeTs.toNat / 2 ^ 32)
      | 2 => w32 s.T
      | _ => w32 x.smp.hsTs.toNat) false)

end Sys2Proof.Claims

open Sys2Proof Sys2Proof.Machine Sys2Proof.Claims

/-- Sums, differences and compares of the units. -/
def Obligations.Arithmetic : Prop := ArithmeticA ∧ ArithmeticB

/-- Bitwise operations, shifts and rotates of the units. -/
def Obligations.Logic : Prop := LogicA ∧ LogicB

/-- SLT, SLTU, MOV, MOVI, LUI and ADDPC (R87, R89). -/
def Obligations.Moves : Prop :=
  (∀ s p (f : RF), f.rsv = 0 → Puts s p (eR 0x01 13 f) (.slt p f) f.rd.toNat
    (if (gReg s p f.rs1).toInt < (gReg s p f.rs2).toInt then 1 else 0)) ∧
  (∀ s p (f : RF), f.rsv = 0 → Puts s p (eR 0x01 14 f) (.sltu p f) f.rd.toNat
    (if (gReg s p f.rs1).toNat < (gReg s p f.rs2).toNat then 1 else 0)) ∧
  (∀ s p (rd rs : BitVec 4), Puts s p (e16 1 rd rs 0) (.mov p rd rs) rd.toNat (gReg s p rs)) ∧
  (∀ s p (rd : BitVec 4) (v : BitVec 7), Puts s p (e16 4 rd (v.extractLsb' 3 4) (v.extractLsb' 0 3)) (.movi p rd v)
    rd.toNat (BitVec.ofInt 32 v.toInt)) ∧
  (∀ s p (rd : BitVec 5) (v : BitVec 20), Puts s p (eU 0x09 rd v) (.lui p rd v) rd.toNat
    (w32 (v.toNat * 0x1000))) ∧
  (∀ s p (rd : BitVec 5) (v : BitVec 20), Puts s p (eU 0x0A rd v) (.addpc p rd v) rd.toNat
    (w32 ((s.u p.val).pc.toNat + v.toNat * 0x1000)))

/-- Every sum, difference and compare whose result overflows with OVE = 1 raises OVF, and a division at its end raises OVF
with OVE = 1 or DIVZ with DZE = 1; none writes a register or a flag (R88, R92, R135, R137). -/
def Obligations.OverflowTrap : Prop :=
  (∀ s p i e, (s.u p.val).spr.ove = true → (s.u p.val).ee = true → Overflowing s p i e → Issues s p e →
    ∃ t, exec i s = .next t ∧ Entered s t p 0x0B 0 (s.u p.val).pc e.info 0) ∧
  (∀ (s : State) (p : UnitIx) fn rd a b ins, (s.u p.val).stat = .divide fn rd a b ins → 2 ≤ fn → fn ≤ 5 →
    (s.u p.val).ee = true →
    (b ≠ 0 → (fn = 2 ∨ fn = 4) → a.toInt = -2 ^ 31 → b.toInt = -1 → (s.u p.val).spr.ove = true →
      ∃ t, exec (.divideComplete p) s = .next t ∧ Entered s t p 0x0B 0 (s.u p.val).pc ins 0) ∧
    (b = 0 → (s.u p.val).spr.dze = true →
      ∃ t, exec (.divideComplete p) s = .next t ∧ Entered s t p 0x0A 0 (s.u p.val).pc ins 0))

/-- MUL, MULU and PRODUCT_WRITE (R91). -/
def Obligations.Multiply : Prop :=
  (∀ s p f, regBadRd f = false → Multiplies s p (encReg 2 4 0x02 0 f) (.mul p f)
    (BitVec.ofInt 64 ((srcA s p f).toInt * (srcB s p f).toInt))) ∧
  (∀ s p f, regBadRd f = false → Multiplies s p (encReg 2 5 0x02 1 f) (.mulu p f)
    (BitVec.ofNat 64 ((srcA s p f).toNat * (srcB s p f).toNat))) ∧
  (∀ (s : State) (p : UnitIx) d l, (s.u p.val).prods = d :: l →
    ∃ t, exec (.productWrite p) s = .next t ∧ t = { s with units := t.units } ∧ (∀ q, q ≠ p.val → t.u q = s.u q) ∧
      t.u p.val = { s.u p.val with prods := l, spr := (t.u p.val).spr } ∧
      (t.u p.val).spr = { (s.u p.val).spr with mh := (t.u p.val).spr.mh, ml := (t.u p.val).spr.ml } ∧
      (t.u p.val).spr.mh ++ (t.u p.val).spr.ml = d)

/-- DIV, DIVU, REM, REMU and DIVIDE_COMPLETE (R92). While the division runs the unit is not ready, so it issues nothing and
takes no cause. -/
def Obligations.Divide : Prop :=
  (∀ s p (f : RF), f.rsv = 0 → Divides s p 2 f (.div p f) ∧ Divides s p 3 f (.divu p f) ∧ Divides s p 4 f (.rem p f) ∧
    Divides s p 5 f (.remu p f)) ∧
  (∀ (s : State) (p : UnitIx) fn rd a b ins, (s.u p.val).stat = .divide fn rd a b ins →
    s.ready p.val = false ∧ s.entryPoint p.val = false) ∧
  (∀ (s : State) (p : UnitIx) fn rd a b ins, (s.u p.val).stat = .divide fn rd a b ins → 2 ≤ fn → fn ≤ 5 →
    let sg := decide (fn = 2 ∨ fn = 4)
    let v := sg && decide (a.toInt = -2 ^ 31 ∧ b.toInt = -1)
    let dz := decide (b = 0)
    (v = true → (s.u p.val).spr.ove = false) → (dz = true → (s.u p.val).spr.dze = false) →
    ∃ t, exec (.divideComplete p) s = .next t ∧ OnlyUnit s t p.val ∧
      Steps (s.setU p.val { s.u p.val with stat := .run }) t p.val 4
        (withG (s.u p.val) rd (if fn ≤ 3 then quotient sg a b else remainder sg a b)) ∧
      bit (t.u p.val).spr.estat 3 = v ∧ bit (t.u p.val).spr.estat 4 = dz ∧
      (∀ k, k ≠ 3 → k ≠ 4 → bit (t.u p.val).spr.estat k = bit (s.u p.val).spr.estat k))

/-- LW, LH, LHU, LB, LBU, POP and LDP on memory that is present and clean (R93, R94, R96, R98). -/
def Obligations.Loads : Prop :=
  (∀ s p f k, Reads s p (encWord 6 0x10 f) (.lw p f) (wordOps (s.u p.val) f).1 4 k (wordOps (s.u p.val) f).2
    (w32 (s.leN k 4))) ∧
  (∀ s p (f : IF) k, Reads s p (eI 0x11 f) (.lh p f) (longEa (s.u p.val) f) 2 k f.rd.toNat
    ((BitVec.ofNat 16 (s.leN k 2)).signExtend 32)) ∧
  (∀ s p f k, Reads s p (encSub 0 0x12 f) (.lhu p f) (subOps (s.u p.val) 2 f).1 2 k (subOps (s.u p.val) 2 f).2
    (w32 (s.leN k 2))) ∧
  (∀ s p (f : IF) k, Reads s p (eI 0x13 f) (.lb p f) (longEa (s.u p.val) f) 1 k f.rd.toNat
    ((BitVec.ofNat 8 (s.leN k 1)).signExtend 32)) ∧
  (∀ s p f k, Reads s p (encSub 1 0x14 f) (.lbu p f) (subOps (s.u p.val) 1 f).1 1 k (subOps (s.u p.val) 1 f).2
    (w32 (s.leN k 1))) ∧
  (∀ s p (f : IF) k, (s.u p.val).mode = 3 → Reads s p (eI 0x19 f) (.ldp p f) (longEa (s.u p.val) f) 4 k f.rd.toNat
    (w32 (s.leN k 4))) ∧
  (∀ s p (rs : BitVec 4) k, Issues s p (e16 0xD rs 8 0) → OnMem s p (s.u p.val).spr.dsp 4 k →
    Unwatched s p 27 (s.u p.val).spr.dsp (w32 (s.leN k 4)) →
    ∃ t, exec (.pop p rs 0) s = .next t ∧ OnlyUnitArb s t p.val ∧
      EndsFrom (((s.u p.val).setG rs.toNat (w32 (s.leN k 4))).setS fun r => { r with dsp := r.dsp + 4 }) t p 2)

/-- Stores and atomics of the units on on-die memory. -/
def Obligations.Stores : Prop := StoresA ∧ StoresB

/-- Branches, jumps and LOOP, the conditions after a compare, and the fetch. -/
def Obligations.Branches : Prop := BranchesA ∧ BranchesB ∧ FetchedFirst

/-- Calls, returns, the spill of the return stack and its flush (R54 to R58). That the fill of a RET takes the word at
(TOP + 1) mod 2^14 for every TOP is the model's choice (log entry 58). -/
def Obligations.ReturnStack : Prop := ReturnStackA ∧ ReturnStackB

/-- MFS and MTS of the registers of R43 with the masks of R45, R47, R54 and R55; COORD is read only (R28). RSDEPTH is written
here with FLUSH = 0, or with an empty return stack. -/
def Obligations.SpecialRegisters : Prop :=
  (∀ s p f, sprBad f = false → ((s.u p.val).mode ≠ 0 ∨ sprHidden (sprOps f).1 = false) →
    Puts s p (encSpr 0 0 f) (.mfs p f) (sprOps f).2 (s.sprVal p.val (sprOps f).1)) ∧
  (∀ s p f, let n := (sprOps f).1
    let v := (s.u p.val).gr (sprOps f).2
    let old := (s.u p.val).spr.estat
    sprBad f = false → n ≠ 15 → ((s.u p.val).mode ≠ 0 ∨ n = 9 ∨ sprShut n = false) →
    (n = 9 → estatCheck (s.u p.val).mode old v = 0) → (n = 3 → bit v 31 = false ∨ (s.u p.val).spr.rs = []) →
    Issues s p (encSpr 1 1 f) →
    ∃ t, exec (.mts p f) s = .next t ∧ OnlyUnit s t p.val ∧ (∀ k, (t.u p.val).gr k = (s.u p.val).gr k) ∧
      t.sprVal p.val n = (match n with
        | 0x0 => v &&& 0xFFFF
        | 0x2 => v &&& 0xFFFCFFFC
        | 0x3 => w32 (fld v 16 14 * 2 ^ 16 + (s.u p.val).spr.rs.length)
        | 0x7 | 0x8 | 0xC => v &&& ~~~1
        | 0x9 => (old &&& ~~~(if (s.u p.val).mode = 0 then estatUser else estatMask)) |||
            (v &&& (if (s.u p.val).mode = 0 then estatUser else estatMask))
        | 0xA => v &&& 0xFF3F
        | 0xE => v &&& ~~~0x3F
        | _ => v) ∧
      (∀ m, m ≠ n → m ≠ 6 → t.sprVal p.val m = s.sprVal p.val m) ∧ (t.u p.val).spr.rs = (s.u p.val).spr.rs ∧
      (n < 6 ∨ 8 < n → (t.u p.val).spr.lc = seqLc (s.u p.val) ∧ (t.u p.val).pc = seqPc (s.u p.val) (encSpr 1 1 f).len) ∧
      (7 ≤ n ∧ n ≤ 8 → (t.u p.val).spr.lc = (s.u p.val).spr.lc) ∧
      (6 ≤ n ∧ n ≤ 8 → (t.u p.val).pc = (s.u p.val).pc + w32 (encSpr 1 1 f).len))

/-- WFE, SEV.C, SEV.R and EVENT_DELIVERY (R102, R103, R300). With EE = 1 a pending cause is taken before a WFE, which then
does not issue (R48). That a WFE which goes to sleep has made its loop-end step and advanced the pc is the model's reading
(log entry 42), and a cause that is already pending is taken by its own command (log entry 5). -/
def Obligations.SleepAndEvents : Prop :=
  (∀ (s : State) (p : UnitIx) f, let e := encSys 3 1 f
    let x := s.u p.val
    sysBad f = false → Issues s p e →
    ∃ t, exec (.wfe p f) s = .next t ∧ OnlyUnit s t p.val ∧
      (x.evt = true → EndsFrom { x with evt := false } t p e.len) ∧
      (x.evt = false → s.anyPend p.val = true → EndsFrom x t p e.len) ∧
      (x.evt = false → s.anyPend p.val = false → x.replay = false → (t.u p.val).stat = .wfe ∧ (t.u p.val).evt = false ∧
        (t.u p.val).pc = seqPc x e.len ∧ (t.u p.val).spr = { x.spr with lc := seqLc x } ∧ (t.u p.val).g = x.g)) ∧
  (∀ (s : State) (p : UnitIx) (f : RF), f.rsv = 0 → f.rd = 0 → f.rs2 = 0 → Issues s p (eR 0x25 7 f) →
    (s.u p.val).stbuf = [] → ∃ t, exec (.sevC p f) s = .next t ∧ OnlyUnitClu s t p.val ∧
      EndsFrom (s.u p.val) t p 4 ∧ EventsSent s t (fun c => decide (c = cOf p.val)) (gReg s p f.rs1)) ∧
  (∀ (s : State) (p : UnitIx) (f : RF), f.rsv = 0 → f.rd = 0 → Issues s p (eR 0x25 8 f) →
    (s.u p.val).stbuf = [] → ∃ t, exec (.sevR p f) s = .next t ∧ OnlyUnitClu s t p.val ∧
      EndsFrom (s.u p.val) t p 4 ∧
      EventsSent s t (fun c => decide (c / 4 = cOf p.val / 4) && bit (gReg s p f.rs1) (c % 4)) (gReg s p f.rs2)) ∧
  (∀ (s : State) (p : UnitIx) u, s.eventBit p.val = some u → u ∈ (s.c (cOf p.val)).sev → s.unitUp p.val = true →
    (s.u p.val).locked = false → ∃ t, exec (.eventDelivery p) s = .next t ∧
      (∀ c, (t.c c).sev = if c = cOf p.val then (s.c c).sev.filter (fun v => v ≠ u) else (s.c c).sev) ∧
      ((s.u p.val).stat ≠ .wfe → t.u p.val = { s.u p.val with evt := true }) ∧
      ((s.u p.val).stat = .wfe → (s.u p.val).replay = false → s.anyPend p.val = false →
        (t.u p.val).stat = .run ∧ (t.u p.val).evt = false ∧ (t.u p.val).pc = (s.u p.val).pc))

/-- WAITT and WAITT_TARGET_REACHED (R104). -/
def Obligations.WaitForTime : Prop :=
  (∀ s p (f : RF), f.rsv = 0 → f.rd = 0 → Issues s p (eR 0x25 9 f) →
    let target := (gReg s p f.rs2).toNat * 2 ^ 32 + (gReg s p f.rs1).toNat
    ∃ t, exec (.waitt p f) s = .next t ∧
      (s.T < target → UnitOnly s t p.val ∧ ∃ d : DWord, d.toNat = target ∧
        t.u p.val = { s.u p.val with stat := .waitt d }) ∧
      (s.T = target → OnlyUnit s t p.val ∧ EndsFrom (s.u p.val) t p 4) ∧
      (target < s.T → OnlyUnit s t p.val ∧ ∃ v : Word, bit v 9 = true ∧
        (∀ i, i ≠ 9 → bit v i = bit (s.u p.val).spr.estat i) ∧
        EndsFrom ((s.u p.val).setS fun r => { r with estat := v }) t p 4)) ∧
  (∀ s (p : UnitIx) d, (s.u p.val).stat = .waitt d → d.toNat ≤ s.T →
    ∃ t, exec (.waittTargetReached p) s = .next t ∧ OnlyUnit s t p.val ∧ EndsFrom (s.u p.val) t p 4) ∧
  (∀ s (p : UnitIx) d, (s.u p.val).stat = .waitt d → s.T < d.toNat →
    exec (.waittTargetReached p) s = .next s) ∧
  (∀ s (p : UnitIx) d, (s.u p.val).stat = .waitt d → s.takeable p.val = true → s.unitUp p.val = true →
    (s.u p.val).micro = none →
    ∃ t, exec (.exceptionEntry p) s = .next t ∧ (t.u p.val).spr.epc = (s.u p.val).pc &&& ~~~1) ∧
  (∀ s (p : UnitIx) d, (s.u p.val).stat = .waitt d → (s.u p.val).ee = false →
    exec (.exceptionEntry p) s = .next s) ∧
  (∀ s (p : UnitIx) d u, (s.u p.val).stat = .waitt d → s.eventBit p.val = some u → u ∈ (s.c (cOf p.val)).sev →
    s.unitUp p.val = true → (s.u p.val).locked = false →
    ∃ t, exec (.eventDelivery p) s = .next t ∧ t.u p.val = { s.u p.val with evt := true })

/-- BCOPY, BFILL and BCRC on memory that is present and clean (R105, R106). That a count of 0 completes whatever the address
operands are, a misaligned one included, is the model's choice (log entry 58). -/
def Obligations.BlockInstructions : Prop :=
  (∀ s p (f : RF) i n, (i = .bcopy p f ∧ n = 0 ∨ i = .bfill p f ∧ n = 1 ∨ i = .bcrc p f ∧ n = 2) →
    BlockIssues s p (eR 0x1A n f) f → gReg s p f.rs2 = 0 →
    ∃ t, exec i s = .next t ∧ OnlyUnit s t p.val ∧ EndsFrom (s.u p.val) t p 4) ∧
  (∀ s p (f : RF) k l, let v := s.leN k 4
    BlockIssues s p (eR 0x1A 0 f) f → gReg s p f.rs2 ≠ 0 → OnMem s p (gReg s p f.rs1) 4 k →
    OnMem s p (gReg s p f.rd) 4 l → Unwatched s p 27 (gReg s p f.rs1) (w32 v) → Unwatched s p 28 (gReg s p f.rd) (w32 v) →
    ∃ t, exec (.bcopy p f) s = .next t ∧ OnlyUnitMem s t p.val ∧ t.leN l 4 = v ∧ Untouched s t l 4 ∧
      BlockStep s t p f fun i =>
        if i = f.rd.toNat then gReg s p f.rd + 4 else if i = f.rs1.toNat then gReg s p f.rs1 + 4
        else if i = f.rs2.toNat then gReg s p f.rs2 - 1 else (s.u p.val).gr i) ∧
  (∀ s p (f : RF) l, BlockIssues s p (eR 0x1A 1 f) f → gReg s p f.rs2 ≠ 0 → OnMem s p (gReg s p f.rd) 4 l →
    Unwatched s p 28 (gReg s p f.rd) (gReg s p f.rs1) →
    ∃ t, exec (.bfill p f) s = .next t ∧ OnlyUnitMem s t p.val ∧ t.leN l 4 = (gReg s p f.rs1).toNat ∧ Untouched s t l 4 ∧
      BlockStep s t p f fun i =>
        if i = f.rd.toNat then gReg s p f.rd + 4 else if i = f.rs2.toNat then gReg s p f.rs2 - 1
        else (s.u p.val).gr i) ∧
  (∀ s p (f : RF) k, let n := min 4 (gReg s p f.rs2).toNat
    BlockIssues s p (eR 0x1A 2 f) f → gReg s p f.rs2 ≠ 0 → OnMem s p (gReg s p f.rs1) 4 k →
    Unwatched s p 27 (gReg s p f.rs1) (w32 (s.leN k 4)) →
    ∃ t, exec (.bcrc p f) s = .next t ∧ OnlyUnitArb s t p.val ∧
      BlockStep s t p f fun i =>
        if i = f.rd.toNat then w32 (crcFold (gReg s p f.rd).toNat ((natLE (s.leN k 4) 4).take n))
        else if i = f.rs1.toNat then gReg s p f.rs1 + 4 else if i = f.rs2.toNat then gReg s p f.rs2 - w32 n
        else (s.u p.val).gr i)

/-- FENCE, CKPT and CHECKPOINT_COMPLETE (R107, R108, R290, R291). -/
def Obligations.FenceAndCheckpoint : Prop :=
  (∀ (s : State) (p : UnitIx) f, sysBad f = false → Issues s p (encSys 4 0 f) → NoStores s p →
    ∃ t, exec (.fence p f) s = .next t ∧ OnlyUnit s t p.val ∧ EndsFrom (s.u p.val) t p (encSys 4 0 f).len ∧
      (t.u p.val).hq = []) ∧
  (∀ (s : State) (p : UnitIx) f, sysBad f = false → (s.u p.val).mode ≠ 0 → Issues s p (encSys 9 3 f) → NoStores s p →
    ∃ t, exec (.ckpt p f) s = .next t ∧ OnlyUnitNg s t p ∧
      t.u p.val = { s.u p.val with stat := .ckpt (encSys 9 3 f).len, hq := [] } ∧
      t.rbit (pgNeg (cOf p.val)) (0x080 + 16 * s.logU p.val) 28 = true) ∧
  (∀ (s : State) (p : UnitIx) f, sysBad f = false → (s.u p.val).lates = [] →
    ((s.u p.val).stbuf ≠ [] ∨ s.storesOut p.val = true) →
    (Issues s p (encSys 4 0 f) → ∃ t, exec (.fence p f) s = .next t ∧ UnitOnly s t p.val ∧
      t.u p.val = { s.u p.val with stat := .fence false (encSys 4 0 f).len (encSys 4 0 f).info }) ∧
    (Issues s p (encSys 9 3 f) → (s.u p.val).mode ≠ 0 → ∃ t, exec (.ckpt p f) s = .next t ∧ UnitOnly s t p.val ∧
      t.u p.val = { s.u p.val with stat := .fence true (encSys 9 3 f).len (encSys 9 3 f).info })) ∧
  (∀ (s : State) (p : UnitIx) f a code l, sysBad f = false → (s.u p.val).lates = (a, code) :: l →
    (s.u p.val).ee = true →
    (Issues s p (encSys 4 0 f) → ∃ t, exec (.fence p f) s = .next t ∧
      Entered s t p 0x0E 0 (s.u p.val).pc (w32 (l.length * 256 + code)) a ∧ (t.u p.val).lates = l) ∧
    (Issues s p (encSys 9 3 f) → (s.u p.val).mode ≠ 0 → ∃ t, exec (.ckpt p f) s = .next t ∧
      Entered s t p 0x0E 0 (s.u p.val).pc (w32 (l.length * 256 + code)) a ∧ (t.u p.val).lates = l)) ∧
  (∀ (s : State) (p : UnitIx) len, (s.u p.val).stat = .ckpt len → s.logU p.val < 8 →
    let c := cOf p.val
    let u := s.logU p.val
    let b := 1 - s.rfld (pgNeg c) (0x080 + 16 * u) 29 1
    ∃ t, exec (.checkpointComplete p) s = .next t ∧ EndsFrom (s.u p.val).flushProds t p len ∧
      t.rfld (pgNeg c) (0x080 + 16 * u) 29 1 = b ∧ t.rbit (pgNeg c) (0x080 + 16 * u) (31 - b) = true ∧
      t.rfld (pgNeg c) (0x080 + 16 * u) 0 16 = (s.rfld (pgNeg c) (0x080 + 16 * u) 0 16 + 1) % 2 ^ 16 ∧
      t.reg (pgNeg c) (0x084 + 16 * u) = w32 s.T ∧ t.reg (pgNeg c) (0x088 + 16 * u) = 0 ∧
      Tab.get [] (t.c c).slots (2 * u + b) =
        t.slotWords p.val ((s.rfld (pgNeg c) (0x080 + 16 * u) 0 16 + 1) % 2 ^ 16) ∧
      (∀ k, k < 32 → ((Tab.get [] (t.c c).slots (2 * u + b))[k]?) = some ((s.u p.val).gr k)) ∧
      (∀ d, (s.u p.val).prods.getLast? = some d →
        ((Tab.get [] (t.c c).slots (2 * u + b))[36]?) = some (w32 (d.toNat / 2 ^ 32)) ∧
        ((Tab.get [] (t.c c).slots (2 * u + b))[37]?) = some (w32 d.toNat)) ∧
      ((Tab.get [] (t.c c).slots (2 * u + b))[47]?) = some (seqPc (s.u p.val) len) ∧
      (∀ j, j / 128 = 2 * u + b → Tab.get 0 (t.c c).slotSynd j = 0) ∧
      Tab.get [] (t.c c).slots (2 * u + (1 - b)) = Tab.get [] (s.c c).slots (2 * u + (1 - b)))

/-- TRAP, ERET, TLBINV, TLBINV.ALL, NOP and illegal encodings. -/
def Obligations.TrapAndReturn : Prop := TrapAndReturnA ∧ TrapAndReturnB

/-- The asynchronous causes and their order, and lockup of a unit (R138 to R145, R150). That WATCHPOINT is taken before a
DEBUG request is the model's reading (log entry 42). -/
def Obligations.ExceptionEntryOrder : Prop := ExceptionEntryOrderA ∧ ExceptionEntryOrderB

/-- Customer instructions (R79, R80, R85, R117 to R123, R127): one microword, and the refusal of a disabled slot; the
decode-table entry is the one read when the first halfword entered the fetch queue. -/
def Obligations.CustomerInstructions : Prop :=
  (∀ (s : State) (p : UnitIx) f, let x := s.u p.val
    let entry := s.cxEntry p.val f.slot.toNat
    let m := microStart x entry (encCx f).info
    let w := (s.readWcs p.val (m.upc - 0x800)).1
    let r := microAlu (mwAlu w) (opA x m w) (opB x m w) (bit x.spr.estat 2)
    Issues s p (encCx f) → bit entry 31 = true → fld entry 27 2 ≠ 3 → fld entry 29 2 ≠ 2 → cxMode entry x.mode = true →
    s.readWcs p.val (m.upc - 0x800) = (w, false, s) → badWord m.fmt w = false → mwSeq w = 5 → mwMem w = 0 →
    mwSide w = 0 → mwSpw w = false → mwWsrc w = 1 → mwRw w = 0x20 → mwMcnt w = 0 →
    (mwFlg w = 2 → r.v = true → x.spr.ove = false) →
    ∃ t, exec (.customerInstruction p f) s = .next t ∧ OnlyUnit s t p.val ∧
      EndsFrom ((x.setG f.rd.toNat r.res).setS fun q => { q with estat := microFlags w q.estat r }) t p 4) ∧
  (∀ (s : State) (p : UnitIx) f, (s.u p.val).ee = true → Issues s p (encCx f) →
    bit (s.cxEntry p.val f.slot.toNat) 31 = false →
    ∃ t, exec (.customerInstruction p f) s = .next t ∧
      Entered s t p 0x02 2 (s.u p.val).pc (encCx f).info (s.u p.val).pc)

/-- STORE_BUFFER_DRAIN, HOST_RESPONSE and HOST_TIMEOUT (R95, R141, R404 to R406). That a response to no request stops the
model is its own choice (log entry 6). -/
def Obligations.HostMasterPort : Prop :=
  (∀ (s : State) (p : UnitIx) b l, (s.u p.val).stbuf = b :: l → s.hostUp = true → (s.u p.val).stat = .run →
    ∃ t q, exec (.storeBufferDrain p) s = .next t ∧ t = { s with units := t.units, hreqs := t.hreqs, hrq := s.hrq ++ [q] } ∧
      t.u p.val = { s.u p.val with stbuf := l } ∧ (∀ k, k ≠ p.val → t.u k = s.u k) ∧
      t.hreqs = s.hreqs ++ [{ id := p.val, wr := true, addr := b.hpa, size := b.size, kind := .store b.va,
                              timedOut := false, dead := false }] ∧
      q.wr = true ∧ q.addr = BitVec.ofNat 48 b.hpa ∧ q.id = BitVec.ofNat 8 p.val ∧ q.dev = b.dev ∧
      q.data = BitVec.ofNat 256 (b.data.toNat % 2 ^ (8 * 2 ^ b.size) * 2 ^ (8 * (b.hpa % 32))) ∧
      q.be = BitVec.ofNat 32 ((2 ^ 2 ^ b.size - 1) * 2 ^ (b.hpa % 32))) ∧
  (∀ (s : State) (r : HReq) l (id : BitVec 8) va data, s.hreqs = r :: l → r.id = id.toNat → r.wr = true →
    r.kind = .store va → r.timedOut = false → r.dead = false → (s.u id.toNat).stat = .run →
    exec (.hostResponse id true 0 data) s = .next { s with hreqs := l }) ∧
  (∀ (s : State) (p : UnitIx) r l j (id : BitVec 8) data rd sg, s.hreqs = r :: l → id.toNat = p.val →
    AwaitsHost s p r j → j.acc = .load → j.after = .reg rd sg →
    let v := laneData data r.addr r.size
    Unwatched s p 27 j.va (w32 v) →
    ∃ t, exec (.hostResponse id false 0 data) s = .next t ∧
      OnlyUnit { s with hreqs := l } t p.val ∧
      EndsFrom ((s.u p.val).setG rd (extend j.size sg v)) t p j.len) ∧
  (∀ (s : State) (p : UnitIx) r l j (id : BitVec 8), s.hreqs = r :: l → id.toNat = p.val → AwaitsHost s p r j →
    j.acc = .load → (s.u p.val).ee = true →
    ∃ t, exec (.hostTimeout id) s = .next t ∧ t.hreqs = { r with timedOut := true } :: l ∧
      Entered s t p 0x06 0x16 (s.u p.val).pc (j.descr 0x16 0) j.va) ∧
  (∀ (s : State) (id : BitVec 8) wr code data, s.hreqs = [] →
    exec (.hostResponse id wr code data) s = .fault .spuriousHostResponse ∧
    exec (.hostTimeout id) s = .fault .spuriousHostResponse)

/-- The registers of a Reel channel and LDI, LDHI, MOV, ALUA, ALUB, CRC and TSTAMP. -/
def Obligations.ReelRegisterFile : Prop := ReelRegisterFileA ∧ ReelRegisterFileB

/-- SAMPLE, SHIN, SHOUT, DRIVE and OE (R155, R167, R170). -/
def Obligations.ReelPins : Prop :=
  (∀ s r k f, Runs s r k 0x06 f (.sample r k f) fun s inj h =>
    let x := s.chan r.val k.val
    if x.smp.srdy then
      ended r k inj f none (s.onCh r.val k.val fun x =>
        { x with smp := { x.smp with srdy := false, stuffErr := false }, lbit := x.smp.sbit, bc := x.bc + 1,
                 sr := if f.mode = 0 then shifted (s.sdir r.val k.val) x.sr x.smp.sbit else x.sr })
    else waiting s r k inj h s) ∧
  (∀ s r k f, let b := s.pinLvl r.val k.val f.pin.toNat
    Runs s r k 0x07 f (.shin r k f) fun s inj _ =>
      ended r k inj f none (s.onCh r.val k.val fun x =>
        { x with sr := shifted (s.sdir r.val k.val) x.sr b, lbit := b, bc := x.bc + 1 })) ∧
  (∀ s r k f, let x := s.chan r.val k.val
    let j := f.pin.toNat
    let right := s.sdir r.val k.val
    let b := if right then bit x.sr 0 else bit x.sr 31
    let sr := shifted right x.sr false
    (f.mode = 0 → PinFree s r k (2 * j) → Runs s r k 0x08 f (.shout r k f) fun s inj _ =>
      ended r k inj f none ((s.onCh r.val k.val fun x => { x with sr := sr, lbit := b, bc := x.bc + 1 }).onCh r.val k.val
        fun x => { x with out := insBit x.out j b, app := insBit x.app j true })) ∧
    (f.mode = 1 → Runs s r k 0x08 f (.shout r k f) fun s inj h =>
      if (Tab.get none x.aout j).isSome then waiting s r k inj h s
      else ended r k inj f none ((s.onCh r.val k.val fun x => { x with sr := sr, lbit := b, bc := x.bc + 1 }).onCh r.val
        k.val fun y => { y with aout := Tab.set none x.aout j (some b) }))) ∧
  (∀ s r k f, let x := s.chan r.val k.val
    let j := f.pin.toNat
    let b := f.imm.getLsbD 0
    (f.mode = 0 → PinFree s r k (2 * j) → Runs s r k 0x09 f (.drive r k f) fun s inj _ =>
      ended r k inj f none (s.onCh r.val k.val fun x =>
        { x with out := insBit x.out j b, app := insBit x.app j true })) ∧
    (f.mode = 1 → Runs s r k 0x09 f (.drive r k f) fun s inj h =>
      if (Tab.get none x.aout j).isSome then waiting s r k inj h s
      else ended r k inj f none (s.onCh r.val k.val fun x => { x with aout := Tab.set none x.aout j (some b) })) ∧
    (f.mode = 0 → PinFree s r k (2 * j + 1) → Runs s r k 0x0A f (.oe r k f) fun s inj _ =>
      ended r k inj f none (s.onCh r.val k.val fun x => { x with oe := insBit x.oe j b })) ∧
    (f.mode = 1 → Runs s r k 0x0A f (.oe r k f) fun s inj h =>
      if (Tab.get none x.aoe j).isSome then waiting s r k inj h s
      else ended r k inj f none (s.onCh r.val k.val fun x => { x with aoe := Tab.set none x.aoe j (some b) })))

/-- WAITPIN, WAITTIME and WAITBIT (R167, R171, R172). -/
def Obligations.ReelWaits : Prop :=
  (∀ s r k f, f.mode.toNat < 2 → Runs s r k 0x0B f (.waitpin r k f) fun s inj h =>
    if s.pinLvl r.val k.val f.pin.toNat = decide (f.mode = 1) then ended r k inj f none s
    else waiting s r k inj h s) ∧
  (∀ s r k f, 2 ≤ f.mode.toNat → let i := 2 * f.pin.toNat + (f.mode.toNat - 2)
    let x := s.chan r.val k.val
    Runs s r k 0x0B f (.waitpin r k f) fun s inj h =>
      let now := if (Tab.get (0, 0) x.seen i).1 = s.rcyc + 1 then some (Tab.get (0, 0) x.seen i).2 else none
      match if h.issued then Tab.get none x.edges i else now with
      | some ts => ended r k inj f none (s.onCh r.val k.val fun x =>
          { x with edges := Tab.set none x.edges i none, edgeTs := ts })
      | none => waiting s r k inj h (s.onCh r.val k.val fun x => { x with edges := Tab.set none x.edges i none })) ∧
  (∀ s r k f, Runs s r k 0x0C f (.waittime r k f) fun s inj h =>
    let v := s.creg r.val k.val f.s.toNat
    let n := if f.mode = 0 then f.imm.toNat else v.toNat
    let ago := (w32 s.T - v).toNat
    if f.mode.toNat < 2 then
      (if n ≤ s.rcyc - (issuedAt s h).cyc then ended r k inj f none s else waiting s r k inj h s)
    else if ago < 2 ^ 31 then
      ended r k inj f none (if h.issued = false ∧ ago ≠ 0 then s.setBit (pgReel r.val) (0x100 + 4 * k.val) 7 true else s)
    else waiting s r k inj h s) ∧
  (∀ s r k f, Runs s r k 0x0D f (.waitbit r k f) fun s inj h =>
    if (if f.mode = 0 then h.bnd else h.smp) then ended r k inj f none s else waiting s r k inj h s)

/-- NOP, JMP, DJNZ, IRQ, STOP, and the words that R166 to R169 forbid. -/
def Obligations.ReelControl : Prop :=
  (∀ s r k f, Runs s r k 0x00 f (.reelNop r k (encRi 0x00 f)) fun s inj _ => ended r k inj f none s) ∧
  (∀ s r k w inj h, Serves s r k w inj h → reelLegal (w.toNat / 2 ^ 27) (riOf w) = false →
    exec (decodeReel r k w) s = .next (stopped (spent s r) r k 1)) ∧
  (∀ s r k f, Runs s r k 0x0E f (.jmp r k f) fun s inj _ =>
    ended r k inj f (if s.reelCond r.val k.val (f.mode.toNat * 8 + f.d.toNat) (s.creg r.val k.val f.s.toNat)
      then some f.imm.toNat else none) s) ∧
  (∀ s r k f, Runs s r k 0x0F f (.djnz r k f) fun s inj _ =>
    match s.setCreg r.val k.val f.d.toNat (s.creg r.val k.val f.d.toNat - 1)
        (s.poisoned r.val k.val f.d.toNat) with
    | some t => ended r k inj f (if t.creg r.val k.val f.d.toNat = 0 then none else some f.imm.toNat) t
    | none => stopped s r k 3) ∧
  (∀ s r k f, Runs s r k 0x13 f (.irq r k f) fun s inj _ =>
    ended r k inj f none ((s.setReg (pgReel r.val) (0x140 + 4 * k.val) (w32 (fld f.imm 0 8))).setBit (pgReel r.val)
      pgRaw k.val true)) ∧
  (∀ (s : State) r k f inj h, reelLegal 0x17 f = true → Serves s r k (encRi 0x17 f) inj h →
    ∃ t, exec (.stop r k f) s = .next t ∧ t.running r.val k.val = false ∧
      (t.chan r.val k.val).inj = none ∧ (t.chan r.val k.val).held = none ∧ (t.chan r.val k.val).aout = [] ∧
      (t.chan r.val k.val).aoe = [] ∧ (t.chan r.val k.val).smp.on = false ∧
      (t.chan r.val k.val).out = (s.chan r.val k.val).out ∧ (t.chan r.val k.val).oe = (s.chan r.val k.val).oe ∧
      (t.chan r.val k.val).pc = (if inj then (s.chan r.val k.val).pc else ((s.chan r.val k.val).pc + 1) % 512) ∧
      t.mem = s.mem ∧ ∀ q, q ≠ r.val → t.r q = s.r q)

/-- PUSH and PULL of good entries, with the queues as the Reel cycle began, also where a channel reset has emptied them in it
(R184 to R186, R232, R234). -/
def Obligations.ReelQueues : Prop :=
  (∀ s r k f, let o := s.owner r.val k.val
    let w := s.creg r.val k.val f.s.toNat
    let a := crcWord ((s.r r.val).acc o) w
    let e : QEnt := { w := w, acc := if s.poisoned r.val k.val f.s.toNat then ~~~a else a, synd := 0 }
    Runs s r k 0x10 f (.reelPush r k f) fun s inj _ =>
      let gone := (s.qwas r.val o).isSome
      let u := if gone then s else s.onR r.val fun x => x.setAcc o a
      let u := if s.rxFull r.val k.val then
          (u.setBit (pgReel r.val) (0x100 + 4 * k.val) 3 true).addSat (pgReel r.val) (0x6C0 + 4 * k.val) 0 16 1
        else if gone then u
        else (u.onR r.val fun x => x.setRx o (x.rxq o ++ [e])).onQc r.val fun q => { q with rxIn := some o }
      ended r k inj f none (if f.mode = 1 then u.onCh r.val k.val fun x =>
        { x with sr := 0, bc := 0, synd := Tab.set 0 x.synd 4 0,
                 poison := (x.poison.filter fun j => j ≠ 5).filter fun j => j ≠ 4 } else u)) ∧
  (∀ s r k f e l, let o := s.owner r.val k.val
    s.txSeen r.val o = e :: l → e.synd = 0 →
    Runs s r k 0x11 f (.pull r k f) fun s inj _ =>
      let u := if (s.qwas r.val o).isSome then s
        else (s.onR r.val fun x => x.setTx o ((x.txq o).drop 1)).onQc r.val fun q => { q with txOut := some o }
      match u.setCreg r.val k.val f.d.toNat e.w false with
      | some t => ended r k inj f none (if f.mode = 1 then t.onCh r.val k.val fun x =>
          { x with bc := 0, poison := x.poison.filter fun j => j ≠ 5 } else t)
      | none => stopped s r k 3) ∧
  (∀ s r k f, s.txSeen r.val (s.owner r.val k.val) = [] → s.rbit (pgReel r.val) (0x080 + 4 * k.val) 30 = true →
    Runs s r k 0x11 f (.pull r k f) fun s inj h => waiting s r k inj h s) ∧
  (∀ s r k f, s.txSeen r.val (s.owner r.val k.val) = [] → s.rbit (pgReel r.val) (0x080 + 4 * k.val) 30 = false →
    Runs s r k 0x11 f (.pull r k f) fun s inj _ =>
      match (s.setBit (pgReel r.val) (0x100 + 4 * k.val) 2 true).setCreg r.val k.val f.d.toNat
          (s.reg (pgReel r.val) (0x700 + 4 * k.val)) false with
      | some t => ended r k inj f none (if f.mode = 1 then t.onCh r.val k.val fun x =>
          { x with bc := 0, poison := x.poison.filter fun j => j ≠ 5 } else t)
      | none => stopped s r k 3)

/-- HSYNC and SETBT with valid sets (R159, R162, R167, R174). The model's choices: the set is checked when HSYNC arms,
and a boundary that falls in the executing cycle counts as past (log entry 66); a SETBT replaces one that waits (log entry
40). -/
def Obligations.SamplerInstructions : Prop :=
  (∀ s r k f, f.mode.toNat < 2 → ValidSet s r k (b2n (s.rbit (pgReel r.val) (0x1C0 + 4 * k.val) 15)) →
    Runs s r k 0x16 f (.hsync r k f) fun s inj _ =>
      ended r k inj f none (s.onSmp r.val k.val fun x => { x with arm := f.mode.toNat + 1 })) ∧
  (∀ s r k f, f.mode = 3 → Runs s r k 0x16 f (.hsync r k f) fun s inj _ =>
    ended r k inj f none (s.onSmp r.val k.val fun x => { x with on := false, arm := 0, chk := [] })) ∧
  (∀ (s : State) r k f inj h, f.mode = 2 → reelLegal 0x16 f = true → Serves s r k (encRi 0x16 f) inj h →
    ValidSet s r k (b2n (s.rbit (pgReel r.val) (0x1C0 + 4 * k.val) 15)) → (s.chan r.val k.val).smp.setB = none →
    ∃ t, exec (.hsync r k f) s = .next t ∧
      let x := (t.chan r.val k.val).smp
      x.on = true ∧ x.bcyc = 0 ∧ x.srdy = false ∧ x.sampled = false ∧ x.noRs = true ∧ x.arm = 0 ∧
      x.bt = s.btOf r.val k.val (b2n (s.rbit (pgReel r.val) (0x1C0 + 4 * k.val) 15)) ∧
      x.hsTs = BitVec.ofNat 64 s.T ∧ t.rfld (pgReel r.val) (0x1C0 + 4 * k.val) 24 8 = 0) ∧
  (∀ s r k f, let i := f.mode.toNat % 2
    let x := (s.chan r.val k.val).smp
    (x.on = true → f.mode.toNat < 2 → Runs s r k 0x15 f (.setbt r k f) fun s inj _ =>
      ended r k inj f none (s.onSmp r.val k.val fun x => { x with setB := some i, setS := none })) ∧
    (x.on = true → 2 ≤ f.mode.toNat → x.sampled = false → Runs s r k 0x15 f (.setbt r k f) fun s inj _ =>
      ended r k inj f none (s.onSmp r.val k.val fun x => { x with setB := none, setS := some i })) ∧
    (x.on = true → 2 ≤ f.mode.toNat → x.sampled = true → ValidSet s r k i →
      let n := s.btOf r.val k.val i
      let b := n.q * n.sp + (s.rcyc - x.s0)
      ∀ inj h, reelLegal 0x15 f = true → Serves s r k (encRi 0x15 f) inj h →
        ∃ t, exec (.setbt r k f) s = .next t ∧ (t.chan r.val k.val).smp.bt = n ∧
          (t.chan r.val k.val).smp.bcyc = (if b < n.len then b else n.len - 1) ∧
          (n.len ≤ b → t.rbit (pgReel r.val) (0x100 + 4 * k.val) 7 = true) ∧
          t.rbit (pgReel r.val) (0x1C0 + 4 * k.val) 15 = decide (i = 1)) ∧
    (x.on = false → ¬ValidSet s r k i → Runs s r k 0x15 f (.setbt r k f) fun s _ _ =>
      stopped s r k 3) ∧
    (x.on = false → ValidSet s r k i → Runs s r k 0x15 f (.setbt r k f) fun s inj _ =>
      ended r k inj f none (((s.onSmp r.val k.val fun x => { x with setB := none, setS := none }).onSmp r.val k.val
        fun x => { x with bt := s.btOf r.val k.val i }).setBit (pgReel r.val) (0x1C0 + 4 * k.val) 15 (decide (i = 1)))))

/-- PAD_EDGE, SAMPLE_POINT and BIT_BOUNDARY (R158, R161, R164, R170, R171). The first clause takes the channels of a Reel
as stopped, so that no sampler follows the edge. -/
def Obligations.PadsAndBits : Prop :=
  (∀ (s : State) pad (level : Bool), Tab.get false s.pads pad.val ≠ level →
    (∀ r k, r < 80 → k < 16 → s.running r k = false) →
    ∃ t, exec (.padEdge pad level) s = .next t ∧ (∀ i, Tab.get false t.pads i =
        if i = pad.val then level else Tab.get false s.pads i) ∧
      t = { s with pads := t.pads, reels := t.reels } ∧
      ∀ (r : ReelIx) (k : SlotIx) (j : Fin 4) (rise : Bool),
        let i := 2 * j.val + b2n rise
        let lvl := level != s.rbit (pgReel r.val) (0x180 + 4 * k.val) (8 * j.val + 7)
        let old := Tab.get none (s.chan r.val k.val).edges i
        Tab.get none (t.chan r.val k.val).edges i =
          if s.reelUp r.val = true ∧ r.val / 5 = pad.val / 32 ∧
              s.rfld (pgReel r.val) (0x180 + 4 * k.val) (8 * j.val) 5 = pad.val % 32 ∧ lvl = rise ∧ old = none
          then some (BitVec.ofNat 64 (s.tAgo (4 + s.tim.cyc % 2))) else old) ∧
  (∀ (s : State) (r : ReelIx) (k : SlotIx), let x := (s.chan r.val k.val).smp
    let cfg := s.reg (pgReel r.val) (0x1C0 + 4 * k.val)
    let v := s.pinLvl r.val k.val (fld cfg 0 2)
    s.reelUp r.val = true → s.running r.val k.val = true → x.on = true → x.sampled = false →
    x.bt.q * x.bt.sp ≤ x.bcyc → fld cfg 8 2 = 0 → x.appl = none → x.setS = none →
    ∃ t, exec (.samplePoint r k) s = .next t ∧
      (t.chan r.val k.val).smp = { x with sampled := true, s0 := s.rcyc, srdy := true, sbit := v, bitErr := false } ∧
      t.rbit (pgReel r.val) (0x100 + 4 * k.val) 4 = (x.srdy || s.rbit (pgReel r.val) (0x100 + 4 * k.val) 4)) ∧
  (∀ (s : State) (r : ReelIx) (k : SlotIx), let x := s.chan r.val k.val
    let cfg := s.reg (pgReel r.val) (0x1C0 + 4 * k.val)
    s.reelUp r.val = true → s.running r.val k.val = true → x.smp.on = true → x.smp.bt.len ≤ x.smp.bcyc →
    x.smp.setB = none → fld cfg 8 2 = 0 →
    ∃ t, exec (.bitBoundary r k) s = .next t ∧
      let y := t.chan r.val k.val
      y.smp.bcyc = 0 ∧ y.smp.sampled = false ∧ y.smp.noRs = false ∧ y.aout = [] ∧ y.aoe = [] ∧ y.pc = x.pc ∧
      y.smp.appl = Tab.get none x.aout (fld cfg 2 2) ∧
      ∀ j, j < 4 → bit y.out j = ((Tab.get none x.aout j).getD (bit x.out j)) ∧
        bit y.oe j = ((Tab.get none x.aoe j).getD (bit x.oe j))) ∧
  (∀ (s : State) (r : ReelIx) (k : SlotIx), let x := (s.chan r.val k.val).smp
    s.reelUp r.val = true → s.running r.val k.val = true → x.on = true →
    (x.bcyc < x.bt.q * x.bt.sp → exec (.samplePoint r k) s = .next (s.qev r.val)) ∧
    (x.bcyc < x.bt.len → exec (.bitBoundary r k) s = .next (s.qev r.val)))

/-- CHANNEL_START, CHANNEL_STOP, CRST and SMPCFG_WRITE through a page that answers (R152 to R156, R160). -/
def Obligations.ChannelControl : Prop :=
  ∀ (s : State) m (n : ReelIx) (k : SlotIx) v, WriteReaches s m (pgReel n.val) → s.uphase (n.val / 5) ≠ 4 →
    let r := s.physR n.val
    (bit v 31 = true → bit v 28 = false → s.running r k.val = false →
      (∃ z, Machine.sizeOf (fld v 12 3) = some z ∧ k.val < 16 / z ∧ ∀ i, i ∈ slotsOf k.val z → s.slotBusy r i = false) →
      ∃ t, exec (.channelStart m n k v) s = .next t ∧ t.running r k.val = true ∧ (t.chan r k.val).pc = fld v 0 9 ∧
        (t.chan r k.val).held = none ∧ (t.chan r k.val).inj = none ∧ (t.chan r k.val).x = (s.chan r k.val).x ∧
        (t.chan r k.val).out = (s.chan r k.val).out ∧ t.rfld (pgReel r) (0x100 + 4 * k.val) 24 4 = 0 ∧
        t.rfld (pgReel r) (0x080 + 4 * k.val) 0 9 = fld v 0 9) ∧
    (bit v 31 = true → bit v 28 = false → s.running r k.val = false →
      (∀ z, Machine.sizeOf (fld v 12 3) = some z → 16 / z ≤ k.val ∨ ∃ i, i ∈ slotsOf k.val z ∧ s.slotBusy r i = true) →
      ∃ t, exec (.channelStart m n k v) s = .next t ∧ t.running r k.val = false ∧
        t.rfld (pgReel r) (0x100 + 4 * k.val) 24 4 = 2 ∧ t.chan r k.val = s.chan r k.val) ∧
    (bit v 31 = false → bit v 28 = false → s.running r k.val = true →
      ∃ t, exec (.channelStop m n k v) s = .next t ∧ t.running r k.val = false ∧ (t.chan r k.val).held = none ∧
        (t.chan r k.val).inj = none ∧ (t.chan r k.val).aout = [] ∧ (t.chan r k.val).aoe = [] ∧
        (t.chan r k.val).smp.on = false ∧ (t.chan r k.val).out = (s.chan r k.val).out ∧
        (t.chan r k.val).oe = (s.chan r k.val).oe ∧ (t.chan r k.val).pc = (s.chan r k.val).pc) ∧
    (bit v 31 = false → bit v 28 = true →
      ∃ t, exec (.crst m n k v) s = .next t ∧ t.running r k.val = false ∧ t.chan r k.val = Chan.reset ∧
        (s.owner r k.val = k.val → (t.r r).txq k.val = [] ∧ (t.r r).rxq k.val = [] ∧ (t.r r).acc k.val = 0xFFFFFFFF)) ∧
    (fld v 8 2 ≠ 3 → (fld v 8 2 ≠ 0 → fld v 10 4 ≠ 0) →
      ∃ t, exec (.smpcfgWrite m n k v) s = .next t ∧
        t.reg (pgReel r) (0x1C0 + 4 * k.val) &&& 0x3FBF = v &&& 0x3FBF ∧
        (fld (s.reg (pgReel r) (0x1C0 + 4 * k.val)) 8 6 ≠ fld v 8 6 →
          (t.chan r k.val).smp.txAny = false ∧ (t.chan r k.val).smp.rxAny = false)) ∧
    ((fld v 8 2 = 3 ∨ (fld v 8 2 ≠ 0 ∧ fld v 10 4 = 0)) →
      ∃ t, exec (.smpcfgWrite m n k v) s = .next t ∧ t.running r k.val = false ∧
        t.rfld (pgReel r) (0x100 + 4 * k.val) 24 4 = 3 ∧
        t.reg (pgReel r) (0x1C0 + 4 * k.val) = s.reg (pgReel r) (0x1C0 + 4 * k.val))

/-- A write through CSDATA3 (R129, R130): with no customer instruction running in the cluster and none waiting before. -/
def CsWrites : Prop :=
  ∀ (s : State) m (c : ClusterIx) v, let p := pgCommon c.val
    let ix := s.rfld p 0x180 0 12
    WriteReaches s m p → s.csBusy c.val = false → (s.c c.val).csq = [] →
    ∃ t, exec (.csdata3Write m c v) s = .next t ∧ t.rfld p 0x180 0 12 = (ix + 1) % 2 ^ 12 ∧
      (0x800 ≤ ix → ix < 0xC00 →
        (∀ u, u < 9 → s.hasPower c.val u = true → t.readWcs (9 * c.val + u) (ix - 0x800) =
          ((v ++ s.reg p 0x18C ++ s.reg p 0x188 ++ s.reg p 0x184 : BitVec 128), false, t)) ∧
        ∀ i, (∀ u, u < 9 → s.hasPower c.val u = true → i ≠ 1024 * u + (ix - 0x800)) →
          Tab.get 0 (t.c c.val).wcs i = Tab.get 0 (s.c c.val).wcs i) ∧
      (¬(0x800 ≤ ix ∧ ix < 0xC00) → t.rbit p 0x194 31 = true ∧ (t.c c.val).wcs = (s.c c.val).wcs)

/-- A read of CSDATA0 latches the word at INDEX: of the microcode ROM, of the WCS as the lowest-numbered powered unit reads
it, or 0 (R114, R129). -/
def CsLatches : Prop :=
  ∀ (s : State) m (c : ClusterIx), let p := pgCommon c.val
    let ix := s.rfld p 0x180 0 12
    ReadReaches s m p →
    ∃ t, exec (.csdata0Read m c) s = .next t ∧ t.rdata = w32 (t.c c.val).csLatch.toNat ∧ t.rresp = 0 ∧
      t.rfld p 0x180 0 12 = ix ∧ (ix < 0x800 → (t.c c.val).csLatch = Config.romWord ix) ∧
      (0x800 ≤ ix → ix < 0xC00 → ∀ u, s.csUnit c.val = some u →
        (t.c c.val).csLatch = (s.readWcs (9 * c.val + u) (ix - 0x800)).1) ∧
      (0xC00 ≤ ix → (t.c c.val).csLatch = 0) ∧ t.units = s.units ∧ t.mem = s.mem

/-- Reads of CSDATA3 and CSCTL (R129). -/
def CsReads : Prop :=
  (∀ (s : State) m (c : ClusterIx), let p := pgCommon c.val
    ReadReaches s m p →
    ∃ t, exec (.csdata3Read m c) s = .next t ∧ t.rdata = w32 ((s.c c.val).csLatch.toNat / 2 ^ 96) ∧ t.rresp = 0 ∧
      t.rfld p 0x180 0 12 = (s.rfld p 0x180 0 12 + 1) % 2 ^ 12 ∧
      t = { onPage s p with regs := t.regs, rdata := t.rdata, rresp := 0 }) ∧
  (∀ (s : State) m (c : ClusterIx), let p := pgCommon c.val
    ReadReaches s m p →
    ∃ t, exec (.csctlRead m c) s = .next t ∧ t.rdata = s.reg p 0x194 ∧ t.rresp = 0 ∧
      t.reg p 0x194 = s.reg p 0x194 &&& 0xFFFF0000 ∧ t = { onPage s p with regs := t.regs, rdata := t.rdata, rresp := 0 } ∧
      ∀ k, k ≠ rkey p 0x194 → Tab.get (regDef k) t.regs k = Tab.get (regDef k) s.regs k)

/-- CSDATA3_WRITE, CSDATA0_READ, CSDATA3_READ and CSCTL_READ. -/
def Obligations.ControlStorePages : Prop := CsWrites ∧ CsLatches ∧ CsReads

/-- TXD_WRITE, RXD_READ, RXDROP_READ, INJECT and QJOIN_WRITE, with the queues as the Reel cycle began (R183 to R185, R187,
R189, R235, R293, R295). -/
def Obligations.ReelQueuePages : Prop :=
  ∀ (s : State) m (n : ReelIx) (k : SlotIx), s.uphase (n.val / 5) ≠ 4 → let r := s.physR n.val
    let o := s.owner r k.val
    (∀ v, WriteReaches s m (pgReel n.val) → (∀ p : UnitIx, m = .unit p → p.val % 9 ≠ 8) →
      ∃ t, exec (.txdWrite m n k v) s = .next t ∧ t.reg (pgReel r) (0x600 + 4 * k.val) = v ∧
        (∀ u, s.readerOf r m = some u → u < 8 → t.rfld (pgNeg (r / 5)) (0x088 + 16 * u) 0 16 =
          min (s.rfld (pgNeg (r / 5)) (0x088 + 16 * u) 0 16 + 1) 0xFFFF) ∧
        (s.txLen r o < s.cap r k.val → (t.r r).txq o = (s.r r).txq o ++ [{ w := v, acc := 0, synd := 0 }]) ∧
        (s.cap r k.val ≤ s.txLen r o →
          (t.r r).txq o = (s.r r).txq o ∧ t.rbit (pgReel r) (0x680 + 4 * o) 25 = true)) ∧
    (ReadReaches s m (pgReel n.val) →
      (∀ e l, s.rxSeen r o = e :: l → e.synd = 0 →
        ∃ t, exec (.rxdRead m n k) s = .next t ∧ t.rdata = e.w ∧ t.rresp = 0 ∧ (t.r r).rxq o = ((s.r r).rxq o).drop 1 ∧
          t.reg (pgCommon (r / 5)) (0x400 + 64 * (r % 5) + 4 * o) = e.acc ∧
          let g := s.reg (pgNeg (r / 5)) (0x200 + 64 * (r % 5) + 4 * o)
          (t.r r).retq o = (s.r r).retq o ++
            if bit g 31 = true ∧ s.readerOf r m = some (fld g 24 3) then [e] else []) ∧
      (s.rxSeen r o = [] →
        ∃ t, exec (.rxdRead m n k) s = .next t ∧ t.rdata = 0 ∧ t.rresp = 0 ∧ (t.r r).rxq o = (s.r r).rxq o ∧
          t.rbit (pgReel r) (0x680 + 4 * o) 24 = true) ∧
      (∃ t, exec (.rxdropRead m n k) s = .next t ∧ t.rdata = s.reg (pgReel r) (0x6C0 + 4 * k.val) ∧ t.rresp = 0 ∧
        t.rfld (pgReel r) (0x6C0 + 4 * k.val) 0 16 = 0)) ∧
    (∀ v, WriteReaches s m (pgReel n.val) →
      (s.running r k.val = true → (s.chan r k.val).inj = none →
        ∃ t, exec (.inject m n k v) s = .next t ∧ t.chan r k.val = { s.chan r k.val with
          inj := some { w := v, issued := false, cyc := 0, bnd := false, smp := false } }) ∧
      ((s.running r k.val = false ∨ (s.chan r k.val).inj ≠ none) →
        ∃ t, exec (.inject m n k v) s = .next t ∧ t.chan r k.val = s.chan r k.val ∧
          t.rbit (pgReel r) 0x7C8 k.val = true)) ∧
    (∀ v, WriteReaches s m (pgReel n.val) → let old := s.reg (pgReel r) 0x7C4
      let clash := ∃ i, i < 4 ∧ bit v i = true ∧ (bit v (8 + i) = true ∨ bit v (12 + i) = true)
      let busy := ∃ b i, b ∈ [0, 1, 2, 3, 8, 9, 10, 11, 12, 13, 14, 15] ∧ bit old b ≠ bit v b ∧ i ∈ joinGroup b ∧
        s.running r i = true
      ((clash ∨ busy) → ∃ t, exec (.qjoinWrite m n v) s = .next t ∧ t.rbit (pgReel r) 0x7C4 31 = true ∧
        fld (t.reg (pgReel r) 0x7C4) 0 16 = fld old 0 16) ∧
      (¬clash → ¬busy → ∃ t, exec (.qjoinWrite m n v) s = .next t ∧
        t.reg (pgReel r) 0x7C4 &&& 0xFF0F = v &&& 0xFF0F ∧
        ∀ b i, b ∈ [0, 1, 2, 3, 8, 9, 10, 11, 12, 13, 14, 15] → bit old b ≠ bit v b → i ∈ joinGroup b →
          (t.r r).txq i = [] ∧ (t.r r).rxq i = [] ∧ (t.r r).acc i = 0xFFFFFFFF))

/-- PROGRAM_WORD_WRITE, PROGRAM_WORD_READ, SSCTL_ARM and START_CYCLE, with T at the start of the Reel cycle (R175, R193). -/
def Obligations.ReelPrograms : Prop :=
  (∀ (s : State) m (n : ReelIx) (w : Fin 512) v, let r := s.physR n.val
    Tab.get 0 (s.r r).pmSynd (w.val / 2) = 0 → s.uphase (n.val / 5) ≠ 4 →
    (WriteReaches s m (pgReel n.val) → ∃ t, exec (.programWordWrite m n w v) s = .next t ∧
      Tab.get 0 (t.r r).pmSynd (w.val / 2) = 0 ∧
      ∀ i, Tab.get 0 (t.r r).pm i = if i = w.val then v else Tab.get 0 (s.r r).pm i) ∧
    (ReadReaches s m (pgReel n.val) → exec (.programWordRead m n w) s =
      .next (answered (Tab.get 0 (s.r r).pm w.val) (s.onQc r fun q => { q with page := true })))) ∧
  (∀ (s : State) m (g : RegionIx) v, WriteReaches s m (pgRegion g.val) → bit v 31 = true → bit v 30 = false →
    s.reelT < s.ssTarget g.val →
    ∃ t, exec (.ssctlArm m g v) s = .next t ∧ t.rbit (pgRegion g.val) 0x108 31 = true ∧
      t.rbit (pgRegion g.val) 0x108 29 = bit v 29 ∧ t.reels = s.reels) ∧
  (∀ (s : State) (g : RegionIx), s.regUp g.val = true → s.rbit (pgRegion g.val) 0x108 31 = true →
    s.ssTarget g.val ≤ s.reelT →
    ∃ t, exec (.startCycle g) s = .next t ∧ t.rbit (pgRegion g.val) 0x108 31 = false ∧
      (∀ q, q / 20 ≠ g.val → t.r q = s.r q) ∧
      ∀ (r : ReelIx) (k : SlotIx), r.val / 20 = g.val → s.reelUp r.val = true →
        (∀ i, i < 16 → (bit (s.reg (pgReel r.val) 0x7CC) i = true ↔ i = k.val)) → s.running r.val k.val = false →
        s.rbit (pgRegion g.val) 0x108 29 = false →
        (∃ z, Machine.sizeOf (s.rfld (pgReel r.val) (0x080 + 4 * k.val) 12 3) = some z ∧ k.val < 16 / z ∧
          ∀ i, i ∈ slotsOf k.val z → s.slotBusy r.val i = false) →
        t.running r.val k.val = true ∧ (t.chan r.val k.val).pc = s.rfld (pgReel r.val) (0x080 + 4 * k.val) 0 9 ∧
          t.rbit (pgReel r.val) 0x7CC (16 + k.val) = true)

/-- FRAME_RECEIVE, FP_LINK_DOWN, FP_LINK_UP, FPCFG_WRITE and PREEMPTION_VERIFY_END (R197 to R200, R207, R209, R215,
R219, R238). The model's choices: the order of faults in `rxFault` and the parse window (log entry 35), and VSTATE at a link
that goes down (log entry 36). -/
def Obligations.FrameIngress : Prop :=
  (∀ (s : State) (i : Fin 16) f, s.fpUp i.val = false → exec (.frameReceive i f) s = .next s) ∧
  (∀ (s : State) (i : Fin 16) f, s.fpUp i.val = true → rxFault s i.val f ≠ 0 →
    (f.bytes.length < 64 ∨ (rxFault s i.val f ≠ 1 ∧ rxByte s i.val f < 96)) →
    exec (.frameReceive i f) s = .next (s.fpCnt i.val (rxFault s i.val f) 1)) ∧
  (∀ (s : State) (i : Fin 16) f, let p := parse f.bytes i.val (s.pvid i.val)
    let trap := s.reg 0x020 0x040
    let tc := fld trap 8 3
    let q := if fld trap 0 5 < 16 then 16 else fld trap 0 5
    let n := f.bytes.length
    s.fpUp i.val = true → rxFault s i.val f = 0 → bit trap 31 = true → p.ptp = true → p.da = 0x0180C200000E →
    s.admitCase q tc n (cellsOf n) true = 0 →
    ∃ t fr, exec (.frameReceive i f) s = .next t ∧ t = { s with fp := t.fp, cnt := t.cnt } ∧ FpCounts s t i.val 0 1 ∧
      t.fq q tc = s.fq q tc ++ [s.fp.next] ∧ t.frame s.fp.next = some fr ∧ fr.bytes = f.bytes ∧ fr.src = i.val ∧
      fr.tc = tc ∧ fr.ptp = true ∧ fr.pcp = p.pcp ∧ fr.vid = p.vid ∧ fr.dests = [q] ∧
      fr.ts = BitVec.ofNat 64 ((f.ts.toNat * 327680 + f.frac.toNat * 5 + f.lane.val * byteTime (s.fpRate i.val)) / 327680) -
        BitVec.ofNat 64 (s.rfld (pgPort i.val) 0x048 0 16) ∧ fr.ccw = crc32c (noFcs f.bytes)) ∧
  (∀ (s : State) (i : Fin 16), ∃ t, exec (.fpLinkDown i) s = .next t ∧ t.rbit (pgPort i.val) 0x044 31 = false ∧
    t.rfld (pgPort i.val) 0x044 28 2 = 0 ∧ (t.port i.val).tx = none ∧ (t.port i.val).held = none ∧
    (∀ c, c < 8 → t.fq i.val c = [] ∧
      t.count (kQueue 0 (8 * i.val + c)) = (s.count (kQueue 0 (8 * i.val + c)) + (s.fq i.val c).length) % 2 ^ 48) ∧
    ∀ p c, p ≠ i.val → c < 8 → t.fq p c = s.fq p c) ∧
  (∀ (s : State) (i : Fin 16), let cfg := s.reg (pgPort i.val) 0x040
    bit cfg 31 = true → fld cfg 28 3 ≤ 4 → s.awake (246 + i.val) = true → s.awake 262 = true →
    ∃ t, exec (.fpLinkUp i) s = .next t ∧ t = { s with regs := t.regs, fp := (s.credits i).fp } ∧
      t.rbit (pgPort i.val) 0x044 31 = true ∧
      t.fpUp i.val = true ∧ (bit cfg 27 = true → bit cfg 24 = true → s.rfld (pgPort i.val) 0x044 28 2 = 0 →
        t.rfld (pgPort i.val) 0x044 28 2 = 1)) ∧
  (∀ (s : State) m (i : Fin 16) v, WriteReaches s m (pgPort i.val) →
    ∃ t, exec (.fpcfgWrite m i v) s = .next t ∧ t.reg (pgPort i.val) 0x040 &&& 0xFFFF3FFF = v &&& 0xFFFF3FFF ∧
      t.rbit (pgPort i.val) 0x044 30 = (decide (4 < fld v 28 3) || s.rbit (pgPort i.val) 0x044 30) ∧
      ((bit v 31 = false ∨ 4 < fld v 28 3) → t.fpUp i.val = false ∧ ∀ c, c < 8 → t.fq i.val c = [])) ∧
  (∀ (s : State) (i : Fin 16) ok, let u := s.rfld (pgPort i.val) 0x044 28 2
    (u = 1 → exec (.preemptionVerifyEnd i ok) s =
      .next (s.setFld (pgPort i.val) 0x044 28 2 (if ok = true then 2 else 3))) ∧
    (u ≠ 1 → exec (.preemptionVerifyEnd i ok) s = .next s))

/-- EGRESS_SELECTION, TRANSMISSION_END, TX_DESCRIPTOR and CLUSTER_PORT_DELIVERY (R199, R201 to R203, R215, R216, R219,
R222, R223, R237). The model's choices: a transmission starts as soon as it may, with its gap at exactly 12 byte times (log
entry 34), and the delimiters of preemptable fragments (log entry 65). -/
def Obligations.FrameEgress : Prop :=
  (∀ (s : State) (i : Fin 16), s.fpUp i.val = false → exec (.egressSelection i) s = .next s) ∧
  (∀ (s : State) (i : Fin 16) (c : Fin 8) id l f, s.fpUp i.val = true → (s.port i.val).tx = none →
    (s.port i.val).held = none → s.fq i.val c.val = id :: l → s.frame id = some f →
    f.synd = [] → (∀ d, c.val < d → d < 8 → s.fq i.val d = []) →
    let start := max s.nowU (s.port i.val).freeAt
    (s.credits i).mayStart i c.val f.bytes.length s.T start = true →
    ∃ t, exec (.egressSelection i) s = .next t ∧ t = { s with fp := t.fp } ∧ t.fq i.val c.val = l ∧
      (t.port i.val).tx = some { id := id, cls := c.val, start := start, ts := s.egressTs i.val start, done := 0,
                                 cut := false, out := none, smd := s.smdOf i.val c.val } ∧
      (t.port i.val).held = none ∧ t.fp.frames = s.fp.frames ∧
      ∀ p d, d < 8 → (p ≠ i.val ∨ d ≠ c.val) → t.fq p d = s.fq p d) ∧
  (∀ (s : State) (i : Fin 16) x, s.fpUp i.val = true → (s.port i.val).tx = none → (s.port i.val).held = some x →
    (∀ c, c < 8 → s.fq i.val c = []) → s.holdMac i s.T = false →
    ∃ t, exec (.egressSelection i) s = .next t ∧
      (t.port i.val).tx = some { x with start := max s.nowU (s.port i.val).freeAt } ∧
      (t.port i.val).held = none ∧ FpCounts s t i.val 7 1 ∧ t = { s with fp := t.fp, cnt := t.cnt }) ∧
  (∀ (s : State) (i : Fin 16), (s.port i.val).tx = none → exec (.transmissionEnd i) s = .next s) ∧
  (∀ (s : State) (i : Fin 16) x l, (s.port i.val).tx = some x → x.out = some l →
    ∃ t, exec (.transmissionEnd i) s = .next t ∧ t = { s with fp := t.fp } ∧ (t.port i.val).tx = (s.port i.val).nextTx ∧
      (t.port i.val).sent = mHead x.smd ++ l.drop x.done ∧ (t.port i.val).fifo = (s.port i.val).fifo) ∧
  (∀ (s : State) (i : Fin 16) x f, (s.port i.val).tx = some x → x.out = none → s.frame x.id = some f → f.synd = [] →
    fcsOk f.bytes = true →
    let ds := f.dests.filter fun j => j ≠ i.val
    ∃ t, exec (.transmissionEnd i) s = .next t ∧ t = { s with fp := t.fp, cnt := t.cnt } ∧ FpCounts s t i.val 5 1 ∧
      (t.port i.val).tx = (s.port i.val).nextTx ∧ (t.port i.val).sent = mHead x.smd ++ (wireFrame f.bytes).drop x.done ∧
      (t.port i.val).freeAt = s.nowU + 12 * byteTime (s.fpRate i.val) ∧
      t.frame x.id = (if ds = [] then none else some { f with dests := ds }) ∧
      (f.tsreq = false → (t.port i.val).fifo = (s.port i.val).fifo) ∧
      (f.tsreq = true → (s.port i.val).fifo.length < Config.egressFifo →
        (t.port i.val).fifo = (s.port i.val).fifo ++ [(f.seq.truncate 16, BitVec.ofNat 64 x.ts)]) ∧
      (f.tsreq = true → Config.egressFifo ≤ (s.port i.val).fifo.length →
        (t.port i.val).fifo = (s.port i.val).fifo ∧ (t.port i.val).lost = true)) ∧
  (∀ (s : State) (c : ClusterIx) (q : Fin 32), let p := pgCommon c.val
    let cfg := s.reg p 0x204
    let ci := s.rfld p 0x20C 0 16
    let w := txWord s c.val
    let len := fld (w 0) 16 16
    let src := (w 3).toNat
    let body := s.bytesAt (bankKey c.val src) len
    let tc := fld (w 0) 8 3
    s.cluUp c.val = true → s.started = true → s.awake 262 = true → bit cfg 31 = true → s.rfld p 0x208 0 16 ≠ ci →
    BankGood s c.val ((s.reg p 0x200).toNat + 32 * (ci % ringSize cfg)) 32 → 14 ≤ len → len ≤ 9212 →
    BankGood s c.val src ((len + 7) / 8 * 8) → w 2 = w32 (2 ^ q.val) → crc32c body = w 7 →
    w 6 - s.reg p 0x224 ≠ 0 → bit (w 6 - s.reg p 0x224) 31 = false →
    s.admitCase q.val tc (len + 4) (cellsOf (len + 4)) true = 0 →
    ∃ t fr, exec (.txDescriptor c) s = .next t ∧ t.rfld p 0x20C 0 16 = (ci + 1) % 2 ^ 16 ∧ t.reg p 0x224 = w 6 ∧
      t.rbit p pgRaw 0 = true ∧ t.fq q.val tc = s.fq q.val tc ++ [s.fp.next] ∧ t.frame s.fp.next = some fr ∧
      fr.bytes = withFcs body ∧ fr.src = 16 + c.val ∧ fr.tc = tc ∧ fr.tsreq = bit (w 0) 6 ∧ fr.seq = w 6 ∧
      fr.dests = [q.val] ∧ t.mem = s.mem) ∧
  (∀ (s : State) (c : ClusterIx), let p := pgCommon c.val
    s.rfld p 0x208 0 16 = s.rfld p 0x20C 0 16 →
    exec (.txDescriptor c) s = .next (s.onC c.val fun x => { x with cpTx := false })) ∧
  (∀ (s : State) (c : ClusterIx) (k : Fin 8) id l f, let p := pgCommon c.val
    let cfg := s.reg p 0x214
    let pi := s.rfld p 0x21C 0 16
    let n := ringSize cfg
    let slot := 2 ^ (11 + fld cfg 8 2)
    let body := noFcs f.bytes
    let addr := (s.reg p 0x218).toNat + pi % n * slot
    let da := (s.reg p 0x210).toNat + 32 * (pi % n)
    s.cluUp c.val = true → s.started = true → s.awake 262 = true → bit cfg 31 = true →
    (pi + 2 ^ 16 - s.rfld p 0x220 0 16) % 2 ^ 16 ≠ n → s.fq (16 + c.val) k.val = id :: l → s.frame id = some f →
    f.synd = [] → (∀ d, k.val < d → d < 8 → s.fq (16 + c.val) d = []) → body.length ≤ slot → f.ccw = crc32c body →
    (∀ i, s.meetsA i = false) →
    BankGood s c.val addr body.length → BankGood s c.val da 32 → (addr + body.length ≤ da ∨ da + 32 ≤ addr) →
    ∃ t, exec (.clusterPortDelivery c) s = .next t ∧ t.rfld p 0x21C 0 16 = (pi + 1) % 2 ^ 16 ∧
      t.rbit p pgRaw 1 = true ∧ t.fq (16 + c.val) k.val = l ∧
      t.bytesAt (bankKey c.val addr) body.length = body ∧
      (∀ i, i < 8 → t.leN (bankKey c.val da + 4 * i) 4 = ((rxDescr f body.length addr).getD i 0).toNat) ∧
      (∀ i, (i < bankKey c.val addr ∨ bankKey c.val addr + body.length ≤ i) →
        (i < bankKey c.val da ∨ bankKey c.val da + 32 ≤ i) → t.byte i = s.byte i) ∧
      t.frame id = (if f.dests.filter (fun j => j ≠ 16 + c.val) = [] then none
        else some { f with dests := f.dests.filter fun j => j ≠ 16 + c.val }))

/-- TABLE_READ, TABLE_WRITE, EGTAG_READ and FXSTG_READ (R205, R206, R212, R213, R215, R223, R241). A write of a queue's
limits is taken exactly when the reservations of all queues fit in the cells; one of schedule parameters keeps the fields
that only the block writes, and with CHANGE = 1 is checked as R212 says. -/
def Obligations.TableWindows : Prop :=
  (∀ (s : State) m (st : Fin 10), WriteReaches s m (pgStage st.val) → let idx := s.rfld (pgStage st.val) 0x040 0 16
    let td := fun w => s.reg (pgStage st.val) (0x080 + 4 * w)
    let l := paramList st.val idx
    let pars := (st.val = 3 ∧ 0x4000 ≤ idx ∧ idx < 0x4080) ∨ (st.val = 8 ∧ 0x2000 ≤ idx ∧ idx < 0x2010)
    (∀ n, tblWords st.val idx = some n →
      ∃ t, exec (.tableRead m st) s = .next t ∧ t = { wrote s m (pgStage st.val) with regs := t.regs } ∧
        (∀ w, w < n → t.reg (pgStage st.val) (0x080 + 4 * w) = s.tw st.val idx w) ∧
        ∀ k, (∀ w, w < n → k ≠ rkey (pgStage st.val) (0x080 + 4 * w)) →
          Tab.get (regDef k) t.regs k = Tab.get (regDef k) s.regs k) ∧
    (∀ n, tblWords st.val idx = some n → (st.val ∈ [1, 2, 4, 7] ∨ (st.val = 3 ∧ idx < 0x2000) ∨
        (st.val = 8 ∧ idx < 0x1000)) →
      ∃ t, exec (.tableWrite m st) s = .next t ∧ OnlyEntry s t m st.val idx ∧
        (∀ w, w < n → t.tw st.val idx w = td w &&& tblMask st.val idx w) ∧
        (st.val = 4 → t.bucket (2 * idx) = (t.meterCap idx).1 ∧ t.bucket (2 * idx + 1) = (t.meterCap idx).2 ∧
          t.bucketT idx = s.T)) ∧
    (st.val = 6 → idx < 256 → let sum := s.rsvSum - s.rsv idx + fld (td 0) 0 16
      (sum ≤ Config.cells → ∃ t, exec (.tableWrite m st) s = .next t ∧ OnlyEntry s t m 6 idx ∧ t.fp = s.fp ∧
        t.tw 6 idx 0 = td 0 &&& 0xFFFF ∧ t.tw 6 idx 1 = td 1 &&& 0xFFFF) ∧
      (Config.cells < sum → ∃ t, exec (.tableWrite m st) s = .next t ∧ TableErr s t m 6)) ∧
    (pars → bit (td 0) 30 = false → ∃ t, exec (.tableWrite m st) s = .next t ∧ OnlyEntry s t m st.val idx ∧
      t.tw st.val idx 0 = (s.tw st.val idx 0 &&& 0x21FF0000) ||| (td 0 &&& tblMask st.val idx 0) ∧
      (∀ w, 1 ≤ w → w < 5 → t.tw st.val idx w = td w) ∧ (∀ w, 5 ≤ w → w < 8 → t.tw st.val idx w = s.tw st.val idx w) ∧
      t.fp.lists = s.fp.lists) ∧
    (pars → bit (td 0) 30 = true → ParamsGood s l td → ∃ t, exec (.tableWrite m st) s = .next t ∧
      OnlyEntry s t m st.val idx ∧ (t.sched l).pend = some (changeTime t l) ∧ bit (t.lpar l 0) 29 = true ∧
      t.lEn l = bit (td 0) 31 ∧ t.lAdmin l = fld (td 0) 0 9 ∧ t.lOper l = s.lOper l ∧
      (∀ w, 1 ≤ w → w < 5 → t.tw st.val idx w = td w) ∧ ∀ l', listNo l' ≠ listNo l → t.sched l' = s.sched l') ∧
    (pars → bit (td 0) 30 = true → ¬ParamsGood s l td →
      ∃ t, exec (.tableWrite m st) s = .next t ∧ TableErr s t m st.val) ∧
    (((st.val = 3 ∧ idx / 0x2000 = 1) ∨ (st.val = 8 ∧ idx / 0x1000 = 1)) →
      ∃ t, exec (.tableWrite m st) s = .next t ∧ TableErr s t m st.val) ∧
    (st.val ∈ [1, 2, 3, 4, 6, 7, 8] → tblWords st.val idx = none →
      (∃ t, exec (.tableWrite m st) s = .next t ∧ TableErr s t m st.val) ∧
      ∃ t, exec (.tableRead m st) s = .next t ∧ TableErr s t m st.val) ∧
    (st.val ∈ [0, 5, 9] → ∀ i, i = .tableRead m st ∨ i = .tableWrite m st →
      ∃ t, exec i s = .next t ∧ t = { wrote s m (pgStage st.val) with regs := t.regs } ∧
        ∀ k, Tab.get (regDef k) t.regs k = Tab.get (regDef k) s.regs k)) ∧
  (∀ (s : State) m (i : Fin 16), ReadReaches s m 0x029 →
    (∀ tag ts l, (s.port i.val).fifo = (tag, ts) :: l → exec (.egtagRead m i) s =
      .next (answered (w32 (2 ^ 31 + b2n (s.port i.val).lost * 2 ^ 16 + tag.toNat))
        ((onPage s 0x029).onPort i.val fun x => { x with fifo := l, tsLatch := ts }))) ∧
    ((s.port i.val).fifo = [] → exec (.egtagRead m i) s =
      .next (answered (w32 (b2n (s.port i.val).lost * 2 ^ 16)) (onPage s 0x029)))) ∧
  (∀ (s : State) m (n : Fin 8), ReadReaches s m 0x025 → ∃ t, exec (.fxstgRead m n) s = .next t ∧
    t.rdata = s.reg 0x025 (0x100 + 4 * n.val) ∧ t.rresp = 0 ∧ t.reg 0x025 (0x100 + 4 * n.val) = 0 ∧
    t = { onPage s 0x025 with regs := t.regs, rdata := t.rdata, rresp := 0 } ∧
    ∀ k, k ≠ rkey 0x025 (0x100 + 4 * n.val) → Tab.get (regDef k) t.regs k = Tab.get (regDef k) s.regs k)

/-- GATE_LIST_CHANGE, LIST_SWAP, SCHEDULE_ROW_CHANGE and RSCTL_CHANGE (R212, R255 to R257; the swap of the rows of the two
lists is log entry 33). -/
def Obligations.TimeDrivenLists : Prop :=
  (∀ (s : State) l, s.listUp l = true → ListGood s l (s.lAdmin l) →
    ∃ t, exec (.gateListChange l) s = .next t ∧ (t.sched l).pend = some (changeTime s l) ∧
      (t.sched l).row = (s.sched l).row ∧ bit (t.lpar l 0) 29 = true ∧
      (∀ j o, j < listMax l → t.lrow l o j = s.lrow l o j) ∧ (∀ l', l' ≠ l → t.sched l' = s.sched l')) ∧
  (∀ (s : State) l, s.listUp l = true → ¬ListGood s l (s.lAdmin l) →
    ∃ t, exec (.gateListChange l) s = .next t ∧ (∀ l', t.sched l' = s.sched l') ∧ t.tbl = s.tbl ∧
      (match l with
       | .gate _ => t.rbit (pgStage 3) 0x044 31 = true
       | .port _ => t.rbit (pgStage 8) 0x044 31 = true
       | .region r => t.rbit (pgRegion r.val) 0x200 28 = true)) ∧
  (∀ (s : State) m (r : RegionIx) v, WriteReaches s m (pgRegion r.val) → bit v 30 = true → let l := ListId.region r
    (ListGood s l (fld v 0 7) → s.lAdmin l < 128 →
      ∃ t, exec (.rsctlChange m r v) s = .next t ∧ (t.sched l).pend = some (changeTime s l) ∧
        bit (t.lpar l 0) 29 = true ∧ bit (t.lpar l 0) 31 = bit v 31 ∧ t.lAdmin l = fld v 0 7 ∧
        ∀ j o, j < 64 → t.lrow l o j = s.lrow l o j) ∧
    (¬ListGood s l (fld v 0 7) → s.lAdmin l < 128 →
      ∃ t, exec (.rsctlChange m r v) s = .next t ∧ t.rbit (pgRegion r.val) 0x200 28 = true ∧ t.sched l = s.sched l)) ∧
  (∀ (s : State) l c, s.listUp l = true → (s.sched l).pend = some c → c ≤ s.T →
    ∃ t, exec (.listSwap l) s = .next t ∧ (t.sched l).pend = none ∧ bit (t.lpar l 0) 29 = false ∧
      (∀ j, j < listMax l → t.lrow l true j = s.lrow l false j ∧ t.lrow l false j = s.lrow l true j) ∧
      t.lOper l = s.lAdmin l ∧ t.lOcycle l = s.lCycle l ∧ t.lObase l = s.lBase l ∧
      (t.sched l).row = if s.lEn l = true ∧ s.lAdmin l ≠ 0 ∧ s.lCycle l ≠ 0 then some 0 else none) ∧
  (∀ (s : State) l, s.listUp l = true → (∀ c, (s.sched l).pend = some c → s.T < c) →
    ∃ t, exec (.listSwap l) s = .next t ∧ t.tbl = s.tbl ∧ t.regs = s.regs ∧ t.fp.lists = s.fp.lists) ∧
  (∀ (s : State) l, s.listUp l = true →
    ∃ t, exec (.scheduleRowChange l) s = .next t ∧ (t.sched l).row = (s.curRow l s.T).map Prod.fst ∧
      t.tbl = s.tbl ∧ t.regs = s.regs ∧ ∀ l', l' ≠ l → t.sched l' = s.sched l')

/-- STEP, TIME_STEP, SLEW, SLEW_END, TBINC_WRITE and TBNOWL_READ (R244 to R249). That TIME_STEP and SLEW_END are the TBCLK
edge which ends the cycle of their command, and come in no other cycle, is the model's choice (log entry 20). -/
def Obligations.TimeBase : Prop :=
  (∀ (s : State) m v, WriteReaches s m pgTime → s.follower = false →
    (bit v 31 = true → exec (.step m v) s = .next { wrote s m pgTime with tim := { s.tim with stepPend := true } }) ∧
    (bit v 31 = false → bit v 30 = true → s.tim.stepPend = false → s.reg pgTime 0x054 ≠ 0 →
      exec (.slew m v) s = .next { wrote s m pgTime with tim := { s.tim with slew := 2 * (s.reg pgTime 0x054).toInt } }) ∧
    (bit v 31 = false → bit v 30 = true → s.tim.stepPend = true →
      exec (.slew m v) s = .next { wrote s m pgTime with tim := { s.tim with slewAfter := true } }) ∧
    (0x07F80000 ≤ v.toNat → v.toNat ≤ 0x08080000 →
      exec (.tbincWrite m v) s = .next ((wrote s m pgTime).setReg pgTime 0x044 v)) ∧
    ((v.toNat < 0x07F80000 ∨ 0x08080000 < v.toNat) → ∃ t, exec (.tbincWrite m v) s = .next t ∧
      t.reg pgTime 0x044 = (if v.toNat < 0x07F80000 then 0x07F80000 else 0x08080000) ∧ t.rbit pgTime 0x06C 3 = true)) ∧
  (∀ (s : State) m v i, WriteReaches s m pgTime → s.follower = true →
    (i = .step m v ∧ bit v 31 = true ∨ i = .slew m v ∧ bit v 30 = true ∨ i = .tbincWrite m v) →
    exec i s = .next ((wrote s m pgTime).setBit pgTime 0x06C 2 true)) ∧
  (∀ (s : State), AtEdge s → s.tim.stepPend = true → s.tim.slewAfter = false →
    s.saf.intake.length < Config.logIntake → s.logAfter 0x30 = [] →
    ∃ t, exec .timeStep s = .next t ∧
      t.T = (s.reg pgTime 0x04C).toNat * 2 ^ 32 + (s.reg pgTime 0x048).toNat ∧ t.tim.phase = 0 ∧ t.tim.slew = 0 ∧
      t.tim.edge = true ∧
      t.tim.stepPend = false ∧ t.rbit pgTime 0x06C 1 = true ∧ t.rbit pgTime 0x06C 28 = false ∧
      ∃ e, t.saf.intake = s.saf.intake ++ [e] ∧ e.code = 0x30 ∧ e.d0 = w32 s.T ∧ e.d1 = w32 (s.T / 2 ^ 32)) ∧
  (∀ (s : State), AtEdge s → s.tim.stepPend = false → s.tim.jump = none →
    (s.tim.slew = 1 ∨ s.tim.slew = -1) →
    ∃ t, exec .slewEnd s = .next t ∧ t.rbit pgTime 0x06C 28 = false ∧
      t.tim = { s.tim with
        base := (s.tim.base + if s.tim.slew = 1 then (s.reg pgTime 0x044).toNat + 2 ^ 23
          else (s.reg pgTime 0x044).toNat - 2 ^ 23) % 2 ^ 88,
        phase := 0, adv := 0, slew := 0, edge := true }) ∧
  (∀ (s : State), s.tim.slew ≠ 1 → s.tim.slew ≠ -1 → exec .slewEnd s = .next s) ∧
  (∀ (s : State), ¬AtEdge s → exec .timeStep s = .next s ∧ exec .slewEnd s = .next s) ∧
  (∀ (s : State) m, ReadReaches s m pgTime → ∃ t, exec (.tbnowlRead m) s = .next t ∧ t.rdata = w32 s.T ∧ t.rresp = 0 ∧
    t = { onPage s pgTime with tim := { s.tim with latch := t.tim.latch }, rdata := t.rdata, rresp := 0 } ∧
    let h := Tab.get 0 t.tim.latch (Master.ix m)
    h / 2 ^ 48 = s.T / 2 ^ 32 ∧ h % 2 ^ 16 = s.copy % 2 ^ 16)

/-- TIME_PULSE, TIME_PULSE_END, TIME_PULSE_CAPTURE and TPCAPL_READ (R251). -/
def Obligations.TimePulses : Prop :=
  ∀ (s : State) (n : Fin 2), let cfg := s.reg pgTime (0x080 + 32 * n.val)
    (s.awake 263 = true → bit cfg 31 = true → Tab.get 0 s.tim.tpOn n.val = 0 → s.tpOut n.val ≤ s.T →
      ∃ t, exec (.timePulse n) s = .next t ∧
        (n.val ∉ s.tim.tpLate → s.T < s.tpOut n.val + s.tpWidth n.val →
          t = { s with tim := { s.tim with tpOn := t.tim.tpOn } } ∧
          Tab.get 0 t.tim.tpOn n.val = s.tpOut n.val + s.tpWidth n.val + 1) ∧
        (n.val ∈ s.tim.tpLate → t.rbit pgTime (0x080 + 32 * n.val) 27 = true ∧
          Tab.get 0 t.tim.tpOn n.val = s.T + s.tpWidth n.val + 1 ∧ n.val ∉ t.tim.tpLate)) ∧
    (s.T < s.tpOut n.val → exec (.timePulse n) s = .next s) ∧
    (∀ e, s.awake 263 = true → Tab.get 0 s.tim.tpOn n.val = e + 1 → e ≤ s.T →
      let per := (s.reg pgTime (0x084 + 32 * n.val)).toNat
      ∃ t, exec (.timePulseEnd n) s = .next t ∧ Tab.get 0 t.tim.tpOn n.val = 0 ∧
        (per = 0 → t.rbit pgTime (0x080 + 32 * n.val) 31 = false ∧ t.tpOut n.val = s.tpOut n.val) ∧
        (per ≠ 0 → t.tpOut n.val = (s.tpOut n.val + per) % 2 ^ 64 ∧
          t.rbit pgTime (0x080 + 32 * n.val) 31 = bit cfg 31)) ∧
    (∀ e, Tab.get 0 s.tim.tpOn n.val = e + 1 → s.T < e → exec (.timePulseEnd n) s = .next s) ∧
    (∀ level, s.awake 263 = true → bit cfg 30 = true → level ≠ bit cfg 29 →
      ∃ t, exec (.timePulseCapture n level) s = .next t ∧ t.reg pgTime (0x094 + 32 * n.val) = w32 s.T ∧
        Tab.get 0 t.tim.tpHi n.val = w32 (s.T / 2 ^ 32) ∧ n.val ∈ t.tim.tpUnread ∧
        t.rbit pgTime pgRaw n.val = true ∧
        (n.val ∈ s.tim.tpUnread → t.rbit pgTime (0x080 + 32 * n.val) 28 = true) ∧
        (n.val ∉ s.tim.tpUnread → t.reg pgTime (0x080 + 32 * n.val) = cfg)) ∧
    (∀ level, (bit cfg 30 = false ∨ level = bit cfg 29) → exec (.timePulseCapture n level) s = .next s) ∧
    (∀ m, ReadReaches s m pgTime → exec (.tpcaplRead m n) s =
      .next (answered (s.reg pgTime (0x094 + 32 * n.val))
        (({ onPage s pgTime with tim := { s.tim with tpUnread := s.tim.tpUnread.filter (fun i => i ≠ n.val) } }).setReg pgTime
          (0x098 + 32 * n.val) (Tab.get 0 s.tim.tpHi n.val))))

/-- CS_ARM, SNAP and CSSHLO_READ (R259 to R262). -/
def Obligations.ContactSheet : Prop :=
  (∀ (s : State) m v, WriteReaches s m pgSheet → bit v 31 = true →
    (s.T < s.snapTarget → ∃ t, exec (.csArm m v) s = .next t ∧ t.rbit pgSheet 0x048 31 = true ∧ t.shadow = s.shadow ∧
      t.tim.snapT = s.snapTarget ∧
      t.reg pgSheet 0x04C = s.reg pgSheet 0x04C ∧
      (bit v 29 = true → s.follower = false → ∀ j, j < 3 → s.linkUsed j = true → (s.l j).up = true →
        (t.l j).tx = (s.l j).tx ++ [(8, dataFlit s.snapTarget)]) ∧
      ((bit v 29 = false ∨ s.follower = true) → t.links = s.links)) ∧
    (s.snapTarget ≤ s.T → bit v 29 = false → ∃ t, exec (.csArm m v) s = .next t ∧
      t.rbit pgSheet 0x048 31 = false ∧ t.rbit pgSheet 0x048 30 = true ∧
      t.reg pgSheet 0x04C = s.reg pgSheet 0x04C + 1 ∧
      t.reg pgSheet 0x050 = w32 s.T ∧ t.reg pgSheet 0x054 = w32 (s.T / 2 ^ 32))) ∧
  (∀ (s : State), s.awake 244 = true → s.rbit pgSheet 0x048 31 = true → s.tim.snapT ≤ s.T →
    ∃ t, exec .snap s = .next t ∧ t = { s with regs := t.regs, shadow := t.shadow } ∧
      t.rbit pgSheet 0x048 31 = false ∧ t.rbit pgSheet 0x048 30 = s.rbit pgSheet 0x048 30 ∧
      t.reg pgSheet 0x04C = s.reg pgSheet 0x04C + 1 ∧ t.rbit pgSheet pgRaw 0 = true ∧
      t.reg pgSheet 0x050 = w32 s.tim.snapT ∧ t.reg pgSheet 0x054 = w32 (s.tim.snapT / 2 ^ 32) ∧
      ∀ k, k ∈ counterKeys → Tab.get (0, 0, false) t.shadow k =
        if s.counterLive (k / 1024) = true then (s.count k, (s.reg pgSheet 0x04C + 1).toNat % 256, false)
        else ((Tab.get (0, 0, false) s.shadow k).1, (s.reg pgSheet 0x04C + 1).toNat % 256, true)) ∧
  (∀ (s : State), (s.rbit pgSheet 0x048 31 = false ∨ s.T < s.tim.snapT) → exec .snap s = .next s) ∧
  (∀ (s : State) m k i, let pg := s.rfld pgSheet 0x058 16 14
    let off := s.rfld pgSheet 0x058 2 10 * 4
    ReadReaches s m pgSheet → kindOf pg = some (k, i) → isCounter k off = true →
    let x := Tab.get (0, 0, false) s.shadow (rkey (s.physPage pg) off)
    ∃ t, exec (.csshloRead m) s = .next t ∧ t.rdata = w32 x.1 ∧ t.rresp = 0 ∧
      t.reg pgSheet 0x060 = w32 (2 ^ 31 + b2n x.2.2 * 2 ^ 30 + x.2.1 * 2 ^ 16 + x.1 / 2 ^ 32) ∧
      t = { onPage s pgSheet with regs := t.regs, rdata := t.rdata, rresp := 0 })

/-- BKSTAT_READ, BKCOLL_READ, BKUNC_READ, BKCONF_READ, MTSTAT_READ, MTCNT_READ, SWDBAD_READ, SLSTAT_READ, LOGSTAT_READ,
LPSESS_READ, LPERR_READ and LOCKERR_READ (R8, R273, R284, R344, R351, R355, R366, R408, R419). -/
def Obligations.ClearingReads : Prop :=
  (∀ (s : State) m i page off (rc : Word), ReadReaches s m page →
    ((∃ (c : ClusterIx) (b : Fin 8), i = .bkcollRead m c b ∧ page = pgBanks c.val ∧ off = 0x060 + 4 * b.val ∧
        rc = 0xFFFFFFFF) ∨
     (∃ (c : ClusterIx) (b : Fin 8), i = .bkuncRead m c b ∧ page = pgBanks c.val ∧ off = 0x080 + 4 * b.val ∧
        rc = 0xFFFF) ∨
     (∃ (c : ClusterIx) (b : Fin 8) (n : Fin 20), i = .bkconfRead m c b n ∧ page = pgBanks c.val ∧
        off = 0x400 + 80 * b.val + 4 * n.val ∧ rc = 0xFFFFFFFF) ∨
     (∃ c : ClusterIx, i = .mtcntRead m c ∧ page = pgMarch c.val ∧ off = 0x04C ∧ rc = 0xFFFFFFFF) ∨
     (i = .swdbadRead m ∧ page = pgSafe ∧ off = 0x290 ∧ rc = 0xFFFF) ∨
     (i = .lpsessRead m ∧ page = pgLoupe ∧ off = 0x040 ∧ rc = 0xFF0000) ∨
     (i = .lperrRead m ∧ page = pgLoupe ∧ off = 0x114 ∧ rc = 0xFFFFFF)) →
    ∃ t, exec i s = .next t ∧ t.rdata = s.reg page off ∧ t.rresp = 0 ∧ t.reg page off = s.reg page off &&& ~~~rc ∧
      t = { onPage s page with regs := t.regs, rdata := t.rdata, rresp := 0 } ∧
      ∀ k, k ≠ rkey page off → Tab.get (regDef k) t.regs k = Tab.get (regDef k) s.regs k) ∧
  (∀ (s : State) m i page off (rc : Word) (v : Word), ReadReaches s m page →
    ((∃ (c : ClusterIx) (b : Fin 8), i = .bkstatRead m c b ∧ page = pgBanks c.val ∧ off = 0x040 + 4 * b.val ∧
        rc = 0xFFFF ∧ v = s.bkstat c.val b.val) ∨
     (∃ c : ClusterIx, i = .mtstatRead m c ∧ page = pgMarch c.val ∧ off = 0x044 ∧ rc = 0xFFFF ∧
        v = s.mtstat c.val) ∨
     (i = .slstatRead m ∧ page = pgSafe ∧ off = 0x040 ∧ rc = 0xFFFF ∧ v = insBit (insBit (s.reg pgSafe 0x040) 30 s.saf.pgood) 29 s.saf.safe) ∨
     (i = .logstatRead m ∧ page = pgSafe ∧ off = 0x254 ∧ rc = 0xFFFF0000 ∧
        v = s.reg pgSafe 0x254 ||| w32 (s.saf.written % Config.logRecords))) →
    ∃ t, exec i s = .next t ∧ t.rdata = v ∧ t.rresp = 0 ∧ t.reg page off = s.reg page off &&& ~~~rc ∧
      t = { onPage s page with regs := t.regs, rdata := t.rdata, rresp := 0 } ∧
      ∀ k, k ≠ rkey page off → Tab.get (regDef k) t.regs k = Tab.get (regDef k) s.regs k) ∧
  (∀ (s : State) m (page : BitVec 14), ReadReaches s m page.toNat → let p := s.physPage page.toNat
    ∀ k i, kindOf page.toNat = some (k, i) →
    ∃ t, exec (.lockerrRead m page) s = .next t ∧ t.rdata = s.reg p lockErr ∧ t.rresp = 0 ∧
      t.reg p lockErr = s.reg p lockErr &&& 0xFFFF0000 ∧
      t = { s.pageTaken k p with regs := t.regs, rdata := t.rdata, rresp := 0 } ∧
      ∀ key, key ≠ rkey p lockErr → Tab.get (regDef key) t.regs key = Tab.get (regDef key) s.regs key)

/-- DMA_START, DMA_STOP and DMA_BURST (R271, R274, R275). -/
def Obligations.DmaChannels : Prop :=
  (∀ (s : State) m (c : ClusterIx) (n : Fin 8) v, WriteReaches s m (pgDma c.val) → let p := pgDma c.val
    let o := 0x100 + 32 * n.val
    let src := (s.reg p o).toNat
    let dst := (s.reg p (o + 4)).toNat
    (bit v 31 = true → s.rbit p (o + 0x0C) 31 = false → s.rfld p (o + 8) 0 24 = 0 →
      ∃ t, exec (.dmaStart m c n v) s = .next t ∧ t.rbit p (o + 0x0C) 31 = false ∧ t.rbit p (o + 0x10) 31 = true ∧
        t.rbit p pgRaw n.val = true ∧ t = { wrote s m p with regs := t.regs }) ∧
    (bit v 31 = true → bit v 30 = false → bit v 29 = false → s.rbit p (o + 0x0C) 31 = false →
      s.rfld p (o + 8) 0 24 ≠ 0 → src % 8 ≠ 0 →
      ∃ t, exec (.dmaStart m c n v) s = .next t ∧ t.rbit p (o + 0x0C) 31 = false ∧ t.rbit p (o + 0x10) 30 = true ∧
        t.rfld p (o + 0x10) 0 8 = 2 ∧ t.reg p (o + 0x14) = s.reg p o ∧ t.rbit p pgRaw (8 + n.val) = true) ∧
    (bit v 31 = true → bit v 30 = false → bit v 29 = false → s.rbit p (o + 0x0C) 31 = false →
      s.rfld p (o + 8) 0 24 ≠ 0 → src % 8 = 0 → dst % 8 = 0 →
      ∃ t, exec (.dmaStart m c n v) s = .next t ∧ t.rbit p (o + 0x0C) 31 = true ∧ t = { wrote s m p with regs := t.regs } ∧
        ∀ k, k ≠ rkey p (o + 0x0C) → Tab.get (regDef k) t.regs k = Tab.get (regDef k) s.regs k) ∧
    (bit v 31 = false →
      ∃ t, exec (.dmaStop m c n v) s = .next t ∧ t.rbit p (o + 0x0C) 31 = false ∧ t = { wrote s m p with regs := t.regs } ∧
        ∀ k, k ≠ rkey p (o + 0x0C) → Tab.get (regDef k) t.regs k = Tab.get (regDef k) s.regs k)) ∧
  (∀ (s : State) (c : ClusterIx) (n : Fin 8), let p := pgDma c.val
    let o := 0x100 + 32 * n.val
    let src := (s.reg p o).toNat
    let dst := (s.reg p (o + 4)).toNat
    let ctl := s.reg p (o + 0x0C)
    let cnt := s.rfld p (o + 8) 0 24
    let k := min (fld ctl 8 6 + 1) cnt
    s.cluUp c.val = true → s.started = true → bit ctl 31 = true → bit ctl 30 = false → bit ctl 29 = false → cnt ≠ 0 →
    src % 8 = 0 → dst % 8 = 0 → src + 8 * k ≤ 0x80000 → dst + 8 * k ≤ 0x80000 →
    (∀ b, b < 8 → s.bankBusy c.val b = false) → (∀ i, i < 8 * k → s.syn (bankKey c.val (src + i)) = 0) →
    s.dst c.val n.val = DmaSt.reset → (∀ i, s.meetsA i = false) →
    (∀ i, i < k → s.grants (arbB c.val ((src + 8 * i) / 0x10000)) (9 + n.val) (bankKey c.val (src + 8 * i)) = true) →
    (∀ i, i < k → s.grants (arbB c.val ((dst + 8 * i) / 0x10000)) (9 + n.val) (bankKey c.val (dst + 8 * i)) = true) →
    ∃ t, exec (.dmaBurst c n []) s = .next t ∧
      t = { s with regs := t.regs, mem := t.mem, synd := t.synd, arb := t.arb, clus := t.clus } ∧
      (∀ q, q ≠ c.val → t.c q = s.c q) ∧ t.c c.val = { s.c c.val with dma := (t.c c.val).dma } ∧
      t.dst c.val n.val = DmaSt.reset ∧
      (∀ i, i < 8 * k → t.byte (bankKey c.val dst + i) = s.byte (bankKey c.val src + i)) ∧
      (∀ i, (i < bankKey c.val dst ∨ bankKey c.val dst + 8 * k ≤ i) → t.byte i = s.byte i) ∧
      (t.reg p o).toNat = src + 8 * k ∧ (t.reg p (o + 4)).toNat = dst + 8 * k ∧ t.rfld p (o + 8) 0 24 = cnt - k ∧
      (k < cnt → t.rbit p (o + 0x0C) 31 = true) ∧
      (k = cnt → t.rbit p (o + 0x0C) 31 = false ∧ t.rbit p (o + 0x10) 31 = true ∧ t.rbit p pgRaw n.val = true)) ∧
  (∀ (s : State) (c : ClusterIx) (n : Fin 8) meets, s.rbit (pgDma c.val) (0x10C + 32 * n.val) 31 = false →
    exec (.dmaBurst c n meets) s = .next s)

/-- SHACQ in the rows of R277, SHREL, SHCAN, SHFREL_FORCE and LOCK_GRANT (R276 to R279); of requests of one fabric cycle the
higher rank wins, and a lock released in this cycle is granted in a later one (R278). -/
def Obligations.ShutterLocks : Prop :=
  (∀ (s : State) (p : UnitIx) (c : ClusterIx) (n : BitVec 6) u, WriteReaches s (.unit p) (pgShutter c.val) →
    cOf p.val = c.val → s.logU p.val = u → u < 8 → let x := s.c c.val
    ((x.lk n.toNat).holder = some u → (x.shmy u).req = n.toNat → (x.shmy u).granted = true →
      ∃ t, exec (.shacq (.unit p) c n) s = .next t ∧ ShAsked s t p c n ∧
        (t.c c.val).shmy u = { x.shmy u with aband := false } ∧ (∀ v, v ≠ u → (t.c c.val).shmy v = x.shmy v) ∧
        ∀ k, (t.c c.val).lk k = x.lk k) ∧
    ((∀ k, n.toNat ≤ k → k < 64 → (x.lk k).holder ≠ some u) → (x.shmy u).pend = true →
      ∃ t, exec (.shacq (.unit p) c n) s = .next t ∧ ShAsked s t p c n ∧
        (t.c c.val).shmy u = { x.shmy u with refused := true } ∧ (∀ v, v ≠ u → (t.c c.val).shmy v = x.shmy v) ∧
        ∀ k, (t.c c.val).lk k = x.lk k) ∧
    ((∀ k, n.toNat ≤ k → k < 64 → (x.lk k).holder ≠ some u) → (x.shmy u).pend = false →
      (x.lk n.toNat).holder = none → (x.lk n.toNat).wait = [] → (x.lk n.toNat).freed ≠ s.tim.cyc + 1 →
      ∃ t, exec (.shacq (.unit p) c n) s = .next t ∧
        (t.c c.val).lk n.toNat = { holder := some u, aband := false, wait := [],
                                   rank := ((x.lk n.toNat).rank.filter fun v => v ≠ u) ++ [u],
                                   freed := (x.lk n.toNat).freed, won := ((t.c c.val).lk n.toNat).won } ∧
        (t.c c.val).shmy u = { x.shmy u with pend := false, granted := true, aband := (x.lk n.toNat).aband,
                                             req := n.toNat, micro := false } ∧
        (∀ k, k ≠ n.toNat → (t.c c.val).lk k = x.lk k) ∧
        (s.physU c.val u = p.val → (s.u p.val).stat ≠ .wfe → (t.u p.val).evt = true)) ∧
    ((∀ k, n.toNat ≤ k → k < 64 → (x.lk k).holder ≠ some u) → (x.shmy u).pend = false →
      ((x.lk n.toNat).holder ≠ none ∨ (x.lk n.toNat).wait ≠ [] ∨ (x.lk n.toNat).freed = s.tim.cyc + 1) →
      s.outranks c.val n.toNat u = none →
      ∃ t, exec (.shacq (.unit p) c n) s = .next t ∧
        (t.c c.val).lk n.toNat = { x.lk n.toNat with wait := (x.lk n.toNat).wait ++ [u] } ∧
        (t.c c.val).shmy u = { x.shmy u with pend := true, granted := false, req := n.toNat, micro := false } ∧
        t.units = s.units) ∧
    (∀ v w, (∀ k, n.toNat ≤ k → k < 64 → (x.lk k).holder ≠ some u) → (x.shmy u).pend = false →
      s.outranks c.val n.toNat u = some (v, w) →
      ∃ t, exec (.shacq (.unit p) c n) s = .next t ∧ ((t.c c.val).lk n.toNat).holder = some u ∧
        v ∈ ((t.c c.val).lk n.toNat).wait ∧ ((t.c c.val).shmy u).granted = true ∧ (t.c c.val).shmy v = w.my) ∧
    (∀ h, n.toNat ≤ h → h < 64 → (x.lk h).holder = some u → (∀ k, h < k → k < 64 → (x.lk k).holder ≠ some u) →
      ¬((x.lk n.toNat).holder = some u ∧ (x.shmy u).req = n.toNat ∧ (x.shmy u).granted = true) →
      (s.u p.val).ee = true →
      ∃ t, exec (.shacq (.unit p) c n) s = .next t ∧
        Entered s t p 0x0D 0 (s.u p.val).pc (w32 (h * 256 + n.toNat)) 0) ∧
    ((x.lk n.toNat).holder = some u →
      ∃ t, exec (.shrel (.unit p) c n) s = .next t ∧
        (t.c c.val).lk n.toNat = { x.lk n.toNat with holder := none, freed := s.tim.cyc + 1, won := none } ∧
        (t.c c.val).shmy u = x.shmy u ∧ ∀ k, k ≠ n.toNat → (t.c c.val).lk k = x.lk k) ∧
    ((x.lk n.toNat).holder ≠ some u →
      ∃ t, exec (.shrel (.unit p) c n) s = .next t ∧ (t.c c.val).shmy u = { x.shmy u with relerr := true } ∧
        ∀ k, (t.c c.val).lk k = x.lk k) ∧
    ((x.shmy u).pend = true → s.nextHolder c.val (x.shmy u).req ≠ some u →
      ∃ t, exec (.shcan (.unit p) c) s = .next t ∧ t = { wrote s (.unit p) (pgShutter c.val) with clus := t.clus } ∧
        (t.c c.val).shmy u = { x.shmy u with pend := false, granted := false, micro := false } ∧
        u ∉ ((t.c c.val).lk (x.shmy u).req).wait ∧ ∀ k, ((t.c c.val).lk k).holder = (x.lk k).holder)) ∧
  (∀ (s : State) m (c : ClusterIx) (n : BitVec 6) u, WriteReaches s m (pgShutter c.val) →
    ((s.c c.val).lk n.toNat).holder = some u →
    ∃ t, exec (.shfrelForce m c n) s = .next t ∧ ((t.c c.val).lk n.toNat).holder = none ∧
      ((t.c c.val).lk n.toNat).aband = true ∧ t.rbit (pgShutter c.val) pgRaw 0 = true ∧
      LoggedOne s t 0x14 (lockMask [n.toNat] 0) (lockMask [n.toNat] 32) ∧
      ∀ k, k ≠ n.toNat → ((t.c c.val).lk k).holder = ((s.c c.val).lk k).holder) ∧
  (∀ (s : State) (c : ClusterIx) (n : Fin 64), s.cluUp c.val = true → let l := (s.c c.val).lk n.val
    (∀ u, l.holder = none → l.freed ≠ s.tim.cyc + 1 → l.rank.find? (fun v => decide (v ∈ l.wait)) = some u →
      ∃ t, exec (.lockGrant c n) s = .next t ∧ ((t.c c.val).lk n.val).holder = some u ∧
        ((t.c c.val).lk n.val).aband = false ∧ ((t.c c.val).lk n.val).wait = l.wait.filter (fun v => v ≠ u) ∧
        ((t.c c.val).shmy u).granted = true ∧ ((t.c c.val).shmy u).pend = false ∧
        ((t.c c.val).shmy u).req = n.val ∧ ((t.c c.val).shmy u).aband = l.aband ∧
        ∀ k, k ≠ n.val → (t.c c.val).lk k = (s.c c.val).lk k) ∧
    (l.holder ≠ none ∨ l.wait = [] ∨ l.freed = s.tim.cyc + 1 → exec (.lockGrant c n) s = .next s))

/-- MTCTL_GO, MARCH_TEST_STOP, CHUNK_PASS, CHUNK_RETRY, MARCH_TEST_END, BANK_CLEAR_COMPLETE and
REGION_MEMORY_CLEAR_COMPLETE (R282, R284 to R287, R289). -/
def Obligations.MarchAndClearing : Prop :=
  (∀ (s : State) m (c : ClusterIx) v, WriteReaches s m (pgMarch c.val) → let x := (s.c c.val).mt
    (∀ b, bit v 31 = true → bit v 30 = false → x.busy = false → b < 8 → bit v b = true → (∀ a, a < b → bit v a = false) →
      ∃ t, exec (.mtctlGo m c v) s = .next t ∧ t = { wrote s m (pgMarch c.val) with regs := t.regs, clus := t.clus } ∧
        (t.c c.val).mt = { March.reset with busy := true, destr := bit v 29, banks := fld v 0 8, bank := b }) ∧
    (bit v 31 = true → bit v 30 = false → x.busy = true →
      ∃ t, exec (.mtctlGo m c v) s = .next t ∧ t = { wrote s m (pgMarch c.val) with regs := t.regs } ∧ t.rbit (pgMarch c.val) 0x044 27 = true) ∧
    (bit v 31 = false → bit v 30 = true → x.busy = true →
      ∃ t, exec (.marchTestStop m c v) s = .next t ∧ (t.c c.val).mt = March.reset ∧
        t.rbit (pgMarch c.val) pgRaw 0 = true ∧ Zeroed s t c.val fun b => x.destr && x.banks.testBit b)) ∧
  (∀ (s : State) (c : ClusterIx), s.cluUp c.val = true → let x := (s.c c.val).mt
    (∀ bad y, x.busy = true → x.destr = false → x.retry = false → x.chunk < 128 →
      s.portFree (arbB c.val x.bank) 19 = false →
      exec (.chunkPass c bad y) s = .next ((s.onMt c.val fun x => { x with want := true }).conflict c.val x.bank 19)) ∧
    (∀ bad, x.busy = true → x.destr = false → x.retry = false → x.chunk < 128 →
      (∀ k, k ∈ chunkKeys c.val x → s.syn k = 0) → s.portFree (arbB c.val x.bank) 19 = true →
      (∃ t, exec (.chunkPass c [] false) s = .next t ∧ t = { s with clus := t.clus, arb := t.arb } ∧
        (t.c c.val).mt = March.next { x with want := false, lent := some (x.bank, x.chunk, x.yields) }) ∧
      ∃ t, exec (.chunkPass c bad true) s = .next t ∧ t.mem = s.mem ∧
        (t.c c.val).mt = { x with want := false, lent := none, yields := x.yields + 1, retry := true } ∧
        t.rfld (pgMarch c.val) 0x044 0 16 = min (s.rfld (pgMarch c.val) 0x044 0 16 + 1) 0xFFFF) ∧
    (x.chunk < 127 → x.next = { x with yields := 0, retry := false, chunk := x.chunk + 1 }) ∧
    (x.busy = true → x.retry = true → x.yields < 16 →
      exec (.chunkRetry c) s = .next (s.onMt c.val fun y => { y with retry := false })) ∧
    (x.busy = true → x.retry = true → 16 ≤ x.yields →
      ∃ t, exec (.chunkRetry c) s = .next t ∧ (t.c c.val).mt = x.next ∧ t.rbit (pgMarch c.val) 0x044 28 = true ∧
        t.rfld (pgMarch c.val) 0x04C 16 16 = min (s.rfld (pgMarch c.val) 0x04C 16 16 + 1) 0xFFFF)) ∧
  (∀ (s : State) (c : ClusterIx), s.saf.por = false → NoWait s → let x := (s.c c.val).mt
    ((x.busy = true ∧ (x.destr = true ∨ x.chunk = 128)) →
      ∃ t, exec (.marchTestEnd c []) s = .next t ∧ (t.c c.val).mt = March.reset ∧
        t.rbit (pgMarch c.val) pgRaw 0 = true ∧ Zeroed s t c.val fun b => x.destr && x.banks.testBit b) ∧
    (∀ b : Fin 8, (s.c c.val).clearing.head? = some b.val →
      ∃ t, exec (.bankClearComplete c b) s = .next t ∧ Zeroed s t c.val (fun i => decide (i = b.val)) ∧
        (t.c c.val).clearing = (s.c c.val).clearing.filter (fun i => i ≠ b.val)))  ∧
  (∀ (s : State) (r : RegionIx) (g : Fin 4), s.saf.por = false → NoWait s → 4 * r.val + g.val ∈ s.rclear →
    ∃ t, exec (.regionMemoryClearComplete r g) s = .next t ∧ t.rclear = s.rclear.filter (fun i => i ≠ 4 * r.val + g.val) ∧
      (∀ a, a < 0x80000 → t.byte (regKey r.val (0x80000 * g.val + a)) = 0) ∧
      ∀ i, (i < regKey r.val (0x80000 * g.val) ∨ regKey r.val (0x80000 * g.val) + 0x80000 ≤ i) → t.byte i = s.byte i)

/-- UFORCE, RFORCE, UNIT_TAKEOVER, REEL_TAKEOVER and REPLAY_TIMEOUT (R297 to R299, R301, R302, R304). -/
def Obligations.Takeovers : Prop :=
  (∀ (s : State) m (c : ClusterIx) v, WriteReaches s m (pgNeg c.val) → let u := fld v 8 3
    let p := 9 * c.val + u
    (bit v 28 = true → bit v 27 = false → (s.c c.val).urepl = none → s.uphase c.val = 0 → (s.u p).locked = false →
      (∀ e, e ∈ (s.c c.val).trig → e.1 ≠ u) →
      ∃ t, exec (.uforce m c v) s = .next t ∧ (t.u p).locked = true ∧
        (t.c c.val).trig = (s.c c.val).trig ++ [(u, 5, s.T)] ∧ t.reg (pgUnit p) 0x2A4 = (s.u p).pc) ∧
    (bit v 28 = false → bit v 27 = true → (∀ e, e ∈ (s.c c.val).rtrig → e.1 ≠ fld v 0 2) →
      ∃ t, exec (.rforce m c v) s = .next t ∧ t = { wrote s m (pgNeg c.val) with regs := t.regs, clus := t.clus } ∧
        (t.c c.val).rtrig = (s.c c.val).rtrig ++ [(fld v 0 2, 5, s.T)])) ∧
  (∀ (s : State) (c : ClusterIx) u code t0, s.cluUp c.val = true → (s.c c.val).trig = [(u, code, t0)] → u < 8 →
    code < 16 → let ng := pgNeg c.val
    let sl := s.reg ng (0x080 + 16 * u)
    let l := Tab.get [] (s.c c.val).slots (2 * u + fld sl 29 1)
    let sp := 9 * c.val + 8
    (s.rbit ng 0x044 31 = false → s.rbit ng 0x040 31 = true →
      (fld sl 30 2 ≠ 0 → l.length = 256 ∧ slotAt l 255 = crcWords (l.take 255) ∧
        ∀ i, i / 128 = 2 * u + fld sl 29 1 → Tab.get 0 (s.c c.val).slotSynd i = 0) →
      ∃ t, exec (.unitTakeover c []) s = .next t ∧ (t.c c.val).urepl = some u ∧ t.rbit ng 0x044 31 = true ∧
        t.rfld ng 0x044 16 3 = u ∧ t.rfld ng 0x044 4 4 = code ∧ (t.uphase c.val = 4 ∨ t.uphase c.val = 6) ∧
        t.dom sp = 0 ∧ t.dom (9 * c.val + u) = 4 ∧ (t.c c.val).trig = [] ∧
        (fld sl 30 2 ≠ 0 → (t.u sp).pc = slotAt l 47 ∧ (t.u sp).spr = (unitOfSlot l).spr ∧
          ∀ i, i < 32 → (t.u sp).gr i = slotAt l i) ∧
        (fld sl 30 2 = 0 → (t.u sp).pc = s.dev.entry ∧ (t.u sp).spr = (UnitSt.reset s.dev.entry).spr)) ∧
    (∀ reason, (s.rbit ng 0x044 31 = true ∧ reason = 1 ∨
        s.rbit ng 0x044 31 = false ∧ s.rbit ng 0x040 31 = false ∧ reason = 2) →
      ∃ t, exec (.unitTakeover c []) s = .next t ∧ t.rbit ng 0x044 29 = true ∧ t.rfld ng 0x044 23 3 = reason ∧
        t.rbit ng pgRaw 2 = true ∧ t.units = s.units ∧ (t.c c.val).urepl = (s.c c.val).urepl ∧
        LoggedOne s t 0x13 (w32 (u * 2 ^ 8 + reason)) 0)) ∧
  (∀ (s : State) (c : ClusterIx) e code t0, s.cluUp c.val = true → (s.c c.val).rtrig = [(e, code, t0)] → e < 4 →
    code < 16 → let ng := pgNeg c.val
    let f := 5 * c.val + e
    let sp := 5 * c.val + 4
    (s.rbit ng 0x044 30 = false → s.rbit ng 0x040 30 = true →
      ∃ t, exec (.reelTakeover c []) s = .next t ∧ (t.c c.val).rrepl = some e ∧ t.rbit ng 0x044 30 = true ∧
        t.rfld ng 0x044 12 2 = e ∧ t.rfld ng 0x044 8 3 = 6 ∧ t.rfld ng 0x044 0 4 = code ∧ t.rbit ng pgRaw 1 = true ∧
        t.dom (144 + sp) = 0 ∧ t.r f = ReelSt.reset ∧ (t.r sp).pm = (s.r f).pm ∧ (t.r sp).tx = (s.r f).tx ∧
        (t.r sp).rx = (s.r f).rx ∧
        ∀ k, k < 16 → (t.chan sp k).x = (s.chan f k).x ∧ (t.chan sp k).sr = (s.chan f k).sr ∧
          (t.chan sp k).bc = (s.chan f k).bc ∧ (s.running f k = false → (t.chan sp k).pc = (s.chan f k).pc)) ∧
    (∀ reason, (s.rbit ng 0x044 30 = true ∧ reason = 1 ∨
        s.rbit ng 0x044 30 = false ∧ s.rbit ng 0x040 30 = false ∧ reason = 2) →
      ∃ t, exec (.reelTakeover c []) s = .next t ∧ t.rbit ng 0x044 28 = true ∧ t.rbit ng pgRaw 2 = true ∧
        t.r (s.physR f) = { ReelSt.reset with pq := (s.r (s.physR f)).pq } ∧ (t.c c.val).rrepl = (s.c c.val).rrepl ∧
        LoggedOne s t 0x13 (w32 (e * 2 ^ 8 + reason)) 0)) ∧
  (∀ (s : State) (c : ClusterIx), s.cluUp c.val = true →
    (s.uphase c.val = 4 → ∃ t, exec (.replayTimeout c) s = .next t ∧ t.uphase c.val = 6 ∧
      t.rbit (pgNeg c.val) 0x044 27 = true ∧ t.rbit (pgNeg c.val) pgRaw 0 = true ∧
      (t.u (9 * c.val + 8)).replay = false) ∧
    (s.uphase c.val ≠ 4 → exec (.replayTimeout c) s = .next s))

/-- CHECKPOINT_COMPLETE and NGRET_WRITE (R294). -/
def Obligations.CheckValueLatches : Prop :=
  (∀ (s : State) (p : UnitIx) (e : Fin 5) (k : SlotIx) len, let c := cOf p.val
    let g := s.reg (pgNeg c) (0x200 + 64 * e.val + 4 * k.val)
    (s.u p.val).stat = .ckpt len → fld g 24 3 = s.logU p.val →
    ∃ t, exec (.checkpointComplete p) s = .next t ∧
      t.reg (pgNeg c) (0x400 + 64 * e.val + 4 * k.val) = s.reg (pgCommon c) (0x400 + 64 * e.val + 4 * k.val)) ∧
  (∀ (s : State) m (c : ClusterIx) (e : Fin 5) (k : SlotIx) v, WriteReaches s m (pgNeg c.val) → bit v 31 = true →
    ∃ t, exec (.ngretWrite m c e k v) s = .next t ∧
      t.reg (pgNeg c.val) (0x400 + 64 * e.val + 4 * k.val) =
        s.reg (pgCommon c.val) (0x400 + 64 * e.val + 4 * k.val))

/-- HWB_WRITE, TLBLK_WRITE, INVALL and INVVA (R307, R308, R312, R313). `pg` is the page of the unit that answers (R425). Which
unlocked entries give way when a locked entry leaves them no room (log entry 69), and what an access under way sees (log
entry 61), are the model's choices. -/
def Obligations.HostWindowRegisters : Prop :=
  ∀ (s : State) m (g : UnitIx), WriteReaches s m (pgUnit g.val) → let pg := s.physPage (pgUnit g.val)
    let q := pg - 0x200
    (∀ (n : Fin 8) (w : Fin 4) v, let off := 0x400 + 16 * n.val + 4 * w.val
      let mask : Word := match w.val with | 0 => 0xFFFF000F | 1 => 0xFFFF0000 | 2 => 0xFFFF | _ => 0x80000F9E
      ∃ t, exec (.hwbWrite m g n w v) s = .next t ∧ t.reg pg off &&& mask = v &&& mask ∧
        (∀ k, k ≠ rkey pg off → k ≠ rkey pg 0x540 → Tab.get (regDef k) t.regs k = Tab.get (regDef k) s.regs k) ∧
        ((s.u q).stat ≠ .wfe → (s.u q).inside = true → t.hwReg q off = s.hwReg q off) ∧
        (t.u q).tlb = (s.u q).tlb ∧ (t.u q).g = (s.u q).g ∧ ∀ p, p ≠ q → t.u p = s.u p) ∧
    (∀ (n : Fin 4) v, ∃ t, exec (.tlblkWrite m g n v) s = .next t ∧
      t.reg pg (0x4C0 + 16 * n.val) &&& 0xFFFFF001 = v &&& 0xFFFFF001 ∧
      (bit v 0 = true → (t.u q).tlb = Tab.drop (fun i => decide (t.tlbRoom q ≤ i))
        ((s.u q).tlb.filter fun e => !decide (e.2.vpn.toNat = fld v 12 20))) ∧
      (bit v 0 = false → (t.u q).tlb = (s.u q).tlb)) ∧
    (∃ t, exec (.invall m g) s = .next t ∧ (t.u q).tlb = [] ∧ (t.u q).g = (s.u q).g ∧ ∀ p, p ≠ q → t.u p = s.u p) ∧
    (∃ t, exec (.invva m g) s = .next t ∧ (t.u q).g = (s.u q).g ∧ (∀ p, p ≠ q → t.u p = s.u p) ∧
      (t.u q).tlb = (s.u q).tlb.filter fun e =>
        !(bit (s.reg pg 0x48C) 31 && decide (e.2.vpn.toNat = fld (s.reg pg 0x48C) 12 20)))

/-- UWDKICK, UWDCTL_WRITE, WATCHDOG_WARN, WDT_BITE, SWDKICK, SWDCTL_WRITE, SWDWARN and SYSWDT_BITE (R353 to R355). The model's
choices: the units of a warm reset have EBASE and pc 0 (log entry 10), and a kick or a stop of the system watchdog that comes
after its count has reached 0 is lost in the warm reset (log entry 54). -/
def Obligations.Watchdogs : Prop :=
  (∀ (s : State) (p : UnitIx) v, let pg := pgUnit p.val
    WriteReaches s (.unit p) pg → s.physPage pg = pg → s.rbit pg 0x2C0 31 = true →
    ∃ t, exec (.uwdkick (.unit p) p v) s = .next t ∧
      (v = 0xC35A → (s.u p.val).dbg.uwd ≠ 0 → (t.u p.val).dbg.uwd = max 1 (s.rfld pg 0x2C4 0 24) ∧
        (t.u p.val).dbg.warned = false ∧ (t.u p.val).locked = (s.u p.val).locked) ∧
      (v ≠ 0xC35A ∨ (s.u p.val).dbg.uwd = 0 → (t.u p.val).locked = true ∧ t.reg pg 0x2A4 = (s.u p.val).pc)) ∧
  (∀ (s : State) m (g : UnitIx) v, let pg := s.physPage (pgUnit g.val)
    let q := pg - 0x200
    WriteReaches s m (pgUnit g.val) →
    ∃ t, exec (.uwdctlWrite m g v) s = .next t ∧
      (s.rbit pg 0x2C0 30 = false → t.rbit pg 0x2C0 31 = bit v 31 ∧
        (bit v 31 = true → s.rbit pg 0x2C0 31 = false →
          (t.u q).dbg.uwd = max 1 (s.rfld pg 0x2C4 0 24) ∧ (t.u q).dbg.warned = false)) ∧
      (s.rbit pg 0x2C0 30 = true → t.rbit pg 0x2C0 31 = s.rbit pg 0x2C0 31 ∧ t.rbit pg 0x2C0 30 = true ∧
        (bit v 31 ≠ s.rbit pg 0x2C0 31 → t.rbit pg 0x2C0 29 = true))) ∧
  (∀ (s : State) (p : UnitIx), let pg := pgUnit p.val
    let d := (s.u p.val).dbg
    let w := s.rfld pg 0x2C8 0 24
    s.unitUp p.val = true → s.rbit pg 0x2C0 31 = true → (s.u p.val).locked = false →
    (d.warned = false → w ≠ 0 → d.uwd ≤ w → (s.u p.val).mode ≠ 3 →
      ∃ t, exec (.watchdogWarn p) s = .next t ∧ (t.u p.val).dbg.warned = true ∧ (t.u p.val).dbg.wdw = some d.uwd ∧
        (t.u p.val).dbg.uwd = d.uwd) ∧
    (w < d.uwd → exec (.watchdogWarn p) s = .next s) ∧
    (d.uwd = 0 → ∃ t, exec (.wdtBite p) s = .next t ∧ (t.u p.val).locked = true ∧ t.reg pg 0x2A4 = (s.u p.val).pc ∧
      (t.u p.val).g = (s.u p.val).g) ∧
    (d.uwd ≠ 0 → exec (.wdtBite p) s = .next s)) ∧
  (∀ (s : State) m v, WriteReaches s m pgSafe →
    (v = 0xA5A5 → exec (.swdkick m v) s = .next { wrote s m pgSafe with saf := { s.saf with kick := true } }) ∧
    (v = 0x5A5A → s.saf.kick = true → ¬SwdAtZero s → exec (.swdkick m v) s = .next
      { wrote s m pgSafe with saf := { s.saf with kick := false, swd := max 1 (s.rfld pgSafe 0x280 0 24), swdWarned := false } }) ∧
    (v = 0x5A5A → s.saf.kick = true → SwdAtZero s → ∃ t, exec (.swdkick m v) s = .next t ∧ SwdBitten s t) ∧
    (v ≠ 0xA5A5 → (v ≠ 0x5A5A ∨ s.saf.kick = false) → ∃ t, exec (.swdkick m v) s = .next t ∧ t.saf.kick = false ∧
      t.saf.swd = s.saf.swd ∧ t.rfld pgSafe 0x290 0 16 = min (s.rfld pgSafe 0x290 0 16 + 1) 0xFFFF) ∧
    (s.rbit pgSafe 0x280 30 = true → exec (.swdctlWrite m v) s = .next (wrote s m pgSafe)) ∧
    (s.rbit pgSafe 0x280 30 = false → bit v 31 = false → SwdAtZero s →
      ∃ t, exec (.swdctlWrite m v) s = .next t ∧ SwdBitten s t) ∧
    (s.rbit pgSafe 0x280 30 = false → (bit v 31 = true ∨ ¬SwdAtZero s) → ∃ t, exec (.swdctlWrite m v) s = .next t ∧ t.rbit pgSafe 0x280 31 = bit v 31 ∧
      t.rbit pgSafe 0x280 30 = bit v 30 ∧ t.rfld pgSafe 0x280 0 24 = fld v 0 24 ∧
      (bit v 31 = true → s.rbit pgSafe 0x280 31 = false →
        t.saf.swd = max 1 (fld v 0 24) ∧ t.saf.swdWarned = false))) ∧
  (∀ (s : State), s.saf.por = false → s.rbit pgSafe 0x280 31 = true → s.started = true →
    let w := s.rfld pgSafe 0x284 0 24
    (s.saf.swdWarned = false → w ≠ 0 → s.saf.swd = w → ∃ t, exec .swdwarn s = .next t ∧ t.rbit pgSafe pgRaw 4 = true ∧
      t.saf = { s.saf with swdWarned := true } ∧ t.units = s.units) ∧
    (s.saf.swd ≠ w → exec .swdwarn s = .next s) ∧
    (s.saf.swd = 0 → ∃ t, exec .syswdtBite s = .next t ∧ SwdBitten s t) ∧
    (s.saf.swd ≠ 0 → exec .syswdtBite s = .next s))

/-- SAFESET, SAFECLR, TEMPERATURE_SAMPLE, VOLTAGE_SAMPLE, CLOCK_MONITOR, XTAL_CHECK, MGMT_RESTART, SL_ALIVE_TOGGLE,
LOG_RECORD_WRITE, LOG_FLUSH, WAKE_PAD, WKSW, WAKE_ALARM and PRESENCE_RESPONSE (R342 to R351, R356 to R358). The model's
choices: a log record is flushed as four host writes of 8 bytes (log entry 30); the count of active samples of a wake pad stops
at 17, and a clock count is good within 6 % of the expected one, or as the operand says (log entry 29). -/
def Obligations.SafelightEvents : Prop :=
  (∀ (s : State) m v, WriteReaches s m pgSafe →
    (bit v 31 = true → exec (.safeset m v) s = .next { wrote s m pgSafe with saf := { s.saf with safe := true } }) ∧
    (bit v 31 = false → bit v 30 = true → exec (.safeclr m v) s = .next { wrote s m pgSafe with saf := { s.saf with safe := false } }) ∧
    (fld v 0 4 = 0 → exec (.wksw m v) s = .next (wrote s m pgSafe)) ∧
    (fld v 0 4 ≠ 0 → ∃ t, exec (.wksw m v) s = .next t ∧ t.rbit pgSafe 0x448 16 = true ∧ t.rbit pgSafe pgRaw 5 = true ∧
      (NewWake s → LoggedOne s t 0x50 (w32 (2 ^ 16)) (w32 (fld v 0 4))) ∧ t.units = s.units)) ∧
  (∀ (s : State), s.saf.por = false →
    (∀ (n : Fin 20) (v : Half), s.rbit pgSafe 0x154 0 = false → let w := sgn16 (s.rfld pgSafe 0x150 0 16)
      let k := sgn16 (s.rfld pgSafe 0x150 16 16)
      ∃ t, exec (.temperatureSample n v) s = .next t ∧ t.reg pgSafe (0x100 + 4 * n.val) = w32 (2 ^ 31 + v.toNat) ∧
        t.saf.safe = (s.saf.safe || decide (k ≤ v.toInt)) ∧
        (n.val ∈ t.saf.warn ↔ w ≤ v.toInt ∨ (n.val ∈ s.saf.warn ∧ w - 20 < v.toInt)) ∧
        (n.val ∈ t.saf.crit ↔ k ≤ v.toInt ∨ (n.val ∈ s.saf.crit ∧ k - 20 < v.toInt)) ∧
        (w ≤ v.toInt → t.rbit pgSafe pgRaw 1 = true) ∧
        (w ≤ v.toInt → n.val ∉ s.saf.warn → v.toInt < k → LoggedOne s t 0x40 (w32 n.val) (w32 v.toNat)) ∧
        t.units = s.units) ∧
    (∀ (n : Fin 8) (v : Half), let cfg := s.reg pgSafe (0x180 + 8 * n.val)
      let x := min v.toNat 0xFFF
      let out := x < fld cfg 0 12 ∨ fld cfg 16 12 < x
      s.rbit pgSafe (0x184 + 8 * n.val) 31 = false →
      (bit cfg 31 = false → exec (.voltageSample n v) s = .next s) ∧
      (bit cfg 31 = true → ∃ t, exec (.voltageSample n v) s = .next t ∧ t.rfld pgSafe (0x184 + 8 * n.val) 0 12 = x ∧
        (¬out → Tab.get 0 t.saf.vrun n.val = 0 ∧ t.rbit pgSafe (0x184 + 8 * n.val) 31 = false) ∧
        (out → Tab.get 0 s.saf.vrun n.val < 3 → Tab.get 0 t.saf.vrun n.val = Tab.get 0 s.saf.vrun n.val + 1 ∧
          t.rbit pgSafe (0x184 + 8 * n.val) 31 = false) ∧
        (out → 3 ≤ Tab.get 0 s.saf.vrun n.val → Tab.get 0 t.saf.vrun n.val = 0 ∧
          t.rbit pgSafe (0x184 + 8 * n.val) 31 = true ∧ t.rbit pgSafe pgRaw 2 = true ∧
          t.saf.safe = (s.saf.safe || bit cfg 30) ∧ LoggedOne s t 0x42 (w32 n.val) (w32 x)))) ∧
    (∀ (d : Fin 42) inTol (count : Word), let good := match s.clkCount d.val with
        | some e => decide (94 * e ≤ 100 * count.toNat ∧ 100 * count.toNat ≤ 106 * e)
        | none => inTol && decide (count.toNat ≠ 0)
      (s.clkRuns d.val = true → d.val ≠ 0 → good = false →
        ∃ t, exec (.clockMonitor d inTol count) s = .next t ∧ t.rbit pgSafe pgRaw 3 = true ∧
          (if d.val < 32 then t.rbit pgSafe 0x1C0 d.val else t.rbit pgSafe 0x1C4 (d.val - 32)) = true ∧
          LoggedOne s t 0x43 (w32 d.val) count) ∧
      ((s.clkRuns d.val = false ∨ good = true) → exec (.clockMonitor d inTol count) s = .next s)) ∧
    (s.saf.xtalDone = true → ∀ good, exec (.xtalCheck good) s = .next s) ∧
    (s.saf.xtalDone = false → ∀ good, ∃ t, exec (.xtalCheck good) s = .next t ∧ t.saf.xtalDone = true ∧
      t.rbit pgSafe 0x040 31 = good ∧ (good = false → LoggedOne s t 0x44 0 0)) ∧
    (s.saf.dvBusy = false → s.saf.upBusy = false → s.saf.ksBusy = false → s.saf.rcBusy = false → s.lpState = 0 →
      ∃ t, exec .mgmtRestart s = .next t ∧ t.rbit pgSafe pgRaw 10 = true ∧ t.dev.upOpen = false ∧
        t.saf.mg = UnitSt.reset 0 ∧ t.saf.mgRam = [] ∧
        t.rfld pgSafe 0x040 0 16 = min (s.rfld pgSafe 0x040 0 16 + 1) 0xFFFF ∧
        LoggedOne s t 0x17 (w32 (t.rfld pgSafe 0x040 0 16)) 0 ∧ t.units = s.units) ∧
    (s.awake 265 = true → exec .slAliveToggle s = .next { s with saf := { s.saf with alive := !s.saf.alive } }) ∧
    (s.awake 265 = false → exec .slAliveToggle s = .next s) ∧
    (s.saf.intake = [] → exec .logRecordWrite s = .next s) ∧
    (∀ e l, s.saf.intake = e :: l → ∃ t, exec .logRecordWrite s = .next t ∧ t.saf.intake = l ∧
      Tab.get [] t.saf.log (s.saf.written % Config.logRecords) = e.words ∧ t.saf.written = s.saf.written + 1 ∧
      t.rbit pgSafe pgRaw 0 = true) ∧
    (let pi := s.rfld pgSafe 0x24C 0 16
     let size := 2 ^ (s.rfld pgSafe 0x240 0 4 + 4)
     let a := s.rfld pgSafe 0x248 0 16 * 2 ^ 32 + (s.reg pgSafe 0x244).toNat + 32 * (pi % size)
     (s.rbit pgSafe 0x240 31 = false → exec .logFlush s = .next s) ∧
     (s.rbit pgSafe 0x240 31 = true → s.hostUp = true → s.saf.flight = none → s.saf.flushed < s.saf.written →
       (pi + 2 ^ 16 - s.rfld pgSafe 0x250 0 16) % 2 ^ 16 ≠ size →
       ∃ t q, exec .logFlush s = .next t ∧ t.saf = { s.saf with flight := some s.saf.flushed } ∧
         t.hrq = s.hrq ++ q ∧ q.map HRq.addr = (List.range 4).map (fun i => BitVec.ofNat 48 (a + 8 * i)) ∧
         t.hreqs = s.hreqs ++ (List.range 4).map fun i =>
           { id := 0xF0, wr := true, addr := a + 8 * i, size := 3, kind := .flush, timedOut := false, dead := false })) ∧
    (∀ pads : BitVec 16, let cfg := fun (i : Nat) => s.reg pgSafe (0x400 + 4 * i)
      let run := fun (i : Nat) => if pads.getLsbD i = bit (cfg i) 30 then 0 else min 17 (Tab.get 0 s.saf.wk i + 1)
      let fires := fun (i : Nat) =>
        bit (cfg i) 31 && decide (if bit (cfg i) 29 then run i = fld (cfg i) 24 4 + 1 else fld (cfg i) 24 4 < run i)
      ∃ t, exec (.wakePad pads) s = .next t ∧ (∀ i, i < 16 → Tab.get 0 t.saf.wk i = run i) ∧
        (∀ i, i < 16 → t.rbit pgSafe 0x448 i = (s.rbit pgSafe 0x448 i || fires i)) ∧
        ((∀ i, i < 16 → fires i = false) → t = { s with saf := { s.saf with wk := t.saf.wk } }) ∧
        ∀ i, i < 16 → fires i = true → t.rbit pgSafe pgRaw 5 = true ∧
          ((∀ j, j < 16 → j ≠ i → fires j = false) → NewWake s →
            LoggedOne s t 0x50 (w32 (2 ^ i)) (w32 (fld (cfg i) 0 4)))) ∧
    ((s.rbit pgSafe 0x444 31 = false ∨ s.rfld pgSafe 0x444 0 24 ≠ 0) → exec .wakeAlarm s = .next s) ∧
    (s.rbit pgSafe 0x444 31 = true → s.rfld pgSafe 0x444 0 24 = 0 → ∃ t, exec .wakeAlarm s = .next t ∧
      t.rbit pgSafe 0x444 31 = false ∧ t.rbit pgSafe 0x448 17 = true ∧
      (NewWake s → LoggedOne s t 0x50 (w32 (2 ^ 17)) (w32 (s.rfld pgSafe 0x444 24 4))))) ∧
  (∀ (s : State) m (page : BitVec 14), s.served page.toNat = false → s.reaches m page.toNat = true →
    s.pageHeld m page.toNat = false → let code := if kindOf page.toNat = none then 2 else 1
    exec (.presenceResponse m page false) s =
      .next { s with rdata := 0, rresp := match m with
        | .unit _ => 0
        | _ => code } ∧
    exec (.presenceResponse m page true) s = .next { s with rresp := if m = .host then code else s.rresp })

/-- DEVELOPER_SEQUENCE, CONFIRM, REVOKE, LIFEADV, DVCMD_UNKNOWN, DVCMD_DONE, RCDATA_WRITE, BOOT, KEYPROG, RCCMD_UNKNOWN,
RCCMD_DONE and OTP_SUPPLY_PRESENT (R321 to R323, R328 to R332, R337 to R339). A command that programs begins it, and what
is left of it is done when it ends; `none` stands for bits that all read back, `some 0` for a first bit that does not. `w`
is the state once what is being cleared has been cleared, which BOOT and KEYPROG wait for (R289). The model's choices: a
command shows its result code from its write on (log entry 22), the order of the checks of a command (log entry 23), and that
the sequence is one step once its handshakes are there (log entry 24). -/
def Obligations.DeveloperCommands : Prop :=
  (∀ (s : State) scan exam ok, (s.dev.due = false → exec (.developerSequence scan exam ok) s = .next s) ∧
    (s.devReady = true →
      (strapFault s.saf.straps = true ∨
        (2 ≤ fld s.saf.straps 2 2 ∧ s.life ≠ 2 ∧ s.otpOnes 1544 8 ∈ [0, 4] ∧ s.dev.pon = false ∧
          s.otpOnes 1568 128 = s.otpOnes 1696 128)) →
      ∃ t, exec (.developerSequence scan exam ok) s = .next t ∧ t.dev.due = false ∧ t.rfld pgDev 0x040 28 4 = 6 ∧
        t.rfld pgDev 0x040 8 8 = (if strapFault s.saf.straps = true then 1 else 3) ∧
        (∀ p, p < 144 → (t.u p).stat = .held) ∧
        ((∀ p, p < 144 → (s.u p).stat = .held) → (∀ r, r < 80 → (s.r r).held = true) → t.units = s.units ∧
          (strapFault s.saf.straps = true → LoggedOne s t 0x03 (s.saf.straps.zeroExtend 32) 0) ∧
          (strapFault s.saf.straps = false → fld s.saf.straps 2 2 = 3 → LoggedOne s t 0x04 0 0)))) ∧
  (∀ (s : State) m, WriteReaches s m pgDev →
    (s.saf.dvBusy = true → ∀ cmd, ∃ t, exec (.dvcmdUnknown m cmd) s = .next t ∧ t.rfld pgDev 0x068 0 8 = 1 ∧
      t.saf = s.saf) ∧
    (s.saf.dvBusy = false →
      (s.started = true → s.saf.vpp = true → s.saf.dv.left = [] →
        ∃ t u, exec (.confirm m none) s = .next t ∧ t.saf.dvBusy = true ∧
        t.rfld pgDev 0x068 0 8 = 0 ∧ t.rbit pgDev 0x040 27 = false ∧ t.rfld pgDev 0x040 20 2 = 0 ∧
        exec .dvcmdDone t = .next u ∧ u.rfld pgDev 0x068 0 8 = 0 ∧ u.saf.dvBusy = false ∧ min s.dev.version 128 ≤ u.rollV) ∧
      (s.started = false → ∃ t, exec (.confirm m none) s = .next t ∧ t.rfld pgDev 0x068 0 8 = 3 ∧
        t.saf.otp = s.saf.otp) ∧
      (let arg := (s.reg pgDev 0x064).toNat
       (arg ≤ 3 → s.saf.vpp = true → (∃ i, i < 4 ∧ i ≠ arg ∧ s.keyProg i = true ∧ s.keyRevoked i = false) →
         ∃ t u, exec (.revoke m none) s = .next t ∧ t.rfld pgDev 0x068 0 8 = 0 ∧ exec .dvcmdDone t = .next u ∧
           u.rfld pgDev 0x068 0 8 = 0 ∧ u.saf.otp = s.saf.otp ||| 2 ^ (1536 + arg) ||| 2 ^ (1540 + arg)) ∧
       (arg ≤ 3 → (∀ i, i < 4 → i ≠ arg → s.keyProg i = true → s.keyRevoked i = true) →
         ∃ t, exec (.revoke m none) s = .next t ∧ t.rfld pgDev 0x068 0 8 = 4 ∧ t.saf.otp = s.saf.otp)) ∧
      (s.life < 2 → s.saf.vpp = true → ∃ t u, exec (.lifeadv m none) s = .next t ∧ t.rfld pgDev 0x068 0 8 = 0 ∧
        exec .dvcmdDone t = .next u ∧ u.rfld pgDev 0x068 0 8 = 0 ∧ ∀ i, i < 4 → u.otpBit (1544 + 4 * s.life + i) = true) ∧
      (s.life = 0 → s.saf.vpp = true → ∃ t u, exec (.lifeadv m (some 0)) s = .next t ∧ exec .dvcmdDone t = .next u ∧
        u.rfld pgDev 0x068 0 8 = 7 ∧ u.saf.otp = s.saf.otp) ∧
      (s.life = 0 → s.saf.vpp = false → ∃ t, exec (.lifeadv m none) s = .next t ∧ t.rfld pgDev 0x068 0 8 = 5 ∧
        t.saf.otp = s.saf.otp) ∧
      (s.life = 2 → ∃ t, exec (.lifeadv m none) s = .next t ∧ t.rfld pgDev 0x068 0 8 = 8 ∧
        t.saf.otp = s.saf.otp) ∧
      (∀ cmd : Byte, cmd ∉ [1, 2, 3] → ∃ t, exec (.dvcmdUnknown m cmd) s = .next t ∧ t.saf.dvBusy = true ∧
        t.rfld pgDev 0x068 0 8 = 2 ∧ t.saf.otp = s.saf.otp))) ∧
  (∀ (s : State), (s.saf.dvBusy = true → s.saf.dv.left = [] → exec .dvcmdDone s =
      .next (({ s with saf := { s.saf with dvBusy := false, dv := Prog.empty } }).flag pgDev 0)) ∧
    (s.saf.dvBusy = false → exec .dvcmdDone s = .next s) ∧
    (s.saf.rcBusy = true → s.saf.rc.left = [] → exec .rccmdDone s =
      .next (({ s with saf := { s.saf with rcBusy := false, rc := Prog.empty } }).flag pgRec 0)) ∧
    (s.saf.rcBusy = false → exec .rccmdDone s = .next s) ∧
    (s.saf.repairs = [] → exec .otpSupplyPresent s = .next { s with saf := { s.saf with vpp := true, repairs := [] } })) ∧
  (∀ (s : State) m, WriteReaches s m pgRec → s.saf.rcBusy = false →
    (∀ v, let o := 4 * s.rfld pgRec 0x040 2 21
      s.recovering = true →
      (s.segBusy (o / 0x200000) (o % 0x200000) = false → s.syn (0x800000 + o) = 0 → s.saf.rcWait = [] →
        ∃ t, exec (.rcdataWrite m v) s = .next t ∧ t.leN (0x800000 + o) 4 = v.toNat ∧ Untouched s t (0x800000 + o) 4 ∧
          t.saf.rcWait = [] ∧ 4 * t.rfld pgRec 0x040 2 21 = (o + 4) % 0x800000) ∧
      (s.segBusy (o / 0x200000) (o % 0x200000) = true → ∃ t, exec (.rcdataWrite m v) s = .next t ∧
        (o, v) ∈ t.saf.rcWait ∧ 4 * t.rfld pgRec 0x040 2 21 = (o + 4) % 0x800000)) ∧
    (s.recovering = false → (∀ v, exec (.rcdataWrite m v) s = .next (wrote s m pgRec)) ∧
      ∃ t, exec (.boot m) s = .next t ∧ t.saf.rcBusy = true ∧ t.reg pgRec 0x050 = 9 ∧ t.units = s.units) ∧
    (s.recovering = true → let w := s.waitClear [0, 1, 2, 3]
      (∀ n, w.checkImg w.stageImg 0x800000 true none = n → n ≠ 0 → ∃ t, exec (.boot m) s = .next t ∧
        t.saf.rcBusy = true ∧ t.reg pgRec 0x050 = w32 (n * 256 + 10) ∧ t.units = w.units) ∧
      (w.checkImg w.stageImg 0x800000 true none = 0 → s.life ≠ 2 → ∃ t, exec (.boot m) s = .next t ∧
        t.saf.rcBusy = true ∧ t.reg pgRec 0x050 = 0 ∧ t.started = true ∧ t.rfld pgDev 0x040 25 2 = 2 ∧
        t.dev.entry = w32 (leNat (w.stageImg 0x14 4))) ∧
      (let arg := (s.reg pgRec 0x04C).toNat
       s.life = 0 → arg ≤ 3 → s.keyProg arg = false → s.saf.vpp = true →
       ∃ t u, exec (.keyprog m none) s = .next t ∧ t.reg pgRec 0x050 = 0 ∧ exec .rccmdDone t = .next u ∧
         u.reg pgRec 0x050 = 0 ∧ u.otpFld (384 * arg) 384 = leNat (w.stageImg 0 48)) ∧
      (∀ cmd : Byte, cmd ∉ [1, 2] → ∃ t, exec (.rccmdUnknown m cmd) s = .next t ∧ t.reg pgRec 0x050 = 2 ∧
        t.saf.otp = s.saf.otp)))

/-- BEGIN, ERASE, PROG, FINISH, ABORT, UPCMD_UNKNOWN, UPDATE_COMMAND_DONE, LOAD, CLEAR, ZEROALL, MAC, KSCMD_UNKNOWN,
KEY_STORE_COMMAND_DONE and TAMPER (R352, R359, R360, R402). PROG and FINISH begin to program, and what is left is done when
the command ends; `none` stands for bytes that all read back, `some 0` for a first byte that does not. The model's choices: UPRES
and KSRES show the result from the write of the command on, with its effects at once (log entry 22), and the order in which
PROG checks and programs, with a failed byte left as it was (log entry 23). -/
def Obligations.UpdateAndKeyStore : Prop :=
  (∀ (s : State) m, WriteReaches s m pgSafe → s.saf.upBusy = false → let base := s.slotBase s.dev.upTgt
    let off := s.rfld pgSafe 0x504 0 30
    let z := s.slotSize
    ((∀ t, t < 2 → s.candidate t = true → (s.reg pgDev (0x048 + 8 * t)).toNat < (s.reg pgSafe 0x508).toNat) →
      ∃ t, exec (.begin m false) s = .next t ∧ t.dev.upOpen = true ∧ t.dev.upTgt = s.upTarget ∧
        t.dev.upSeq = s.reg pgSafe 0x508 ∧ t.rfld pgSafe 0x50C 0 8 = 0 ∧ t.saf.upBusy = true ∧
        (∀ a, a < 0x10000 → t.fl (s.slotBase s.upTarget + z - 0x10000 + a) = 0xFF) ∧
        ∀ a, (a < s.slotBase s.upTarget + z - 0x10000 ∨ s.slotBase s.upTarget + z - 0x10000 + 0x10000 ≤ a) →
          t.fl a = s.fl a) ∧
    (∀ t', t' < 2 → s.candidate t' = true → (s.reg pgSafe 0x508).toNat ≤ (s.reg pgDev (0x048 + 8 * t')).toNat →
      ∃ t, exec (.begin m false) s = .next t ∧ t.rfld pgSafe 0x50C 0 8 = 6 ∧ t.saf.flash = s.saf.flash ∧
        t.dev = s.dev ∧ LoggedOne s t 0x71 6 1) ∧
    (s.dev.upOpen = true → off % 0x10000 = 0 → off < z → off ≠ z - 0x10000 →
      ∃ t, exec (.erase m false) s = .next t ∧ t.rfld pgSafe 0x50C 0 8 = 0 ∧
        ∀ a, t.fl a = if base + off ≤ a ∧ a < base + off + 0x10000 then 0xFF else s.fl a) ∧
    (s.dev.upOpen = true → off % 256 = 0 → off + 0x100 < z → (∀ i, i < 256 → s.fl (base + off + i) = 0xFF) →
      (∃ t u, exec (.prog m false none) s = .next t ∧ t.rfld pgSafe 0x50C 0 8 = 0 ∧ t.saf.upBusy = true ∧
        exec .updateCommandDone t = .next u ∧ u.rfld pgSafe 0x50C 0 8 = 0 ∧
        (∀ i, i < 256 → some (u.fl (base + off + i)) = (s.regBytes pgSafe 0x600 64)[i]?) ∧
        ∀ a, (a < base + off ∨ base + off + 256 ≤ a) → u.fl a = s.fl a) ∧
      ∃ t u, exec (.prog m false (some 0)) s = .next t ∧ exec .updateCommandDone t = .next u ∧
        u.rfld pgSafe 0x50C 0 8 = 7 ∧ u.fl (base + off) = 0xFF) ∧
    (∀ i, i ∈ [Instr.erase m false, .prog m false none, .finish m false none] → s.dev.upOpen = false →
      ∃ t, exec i s = .next t ∧ t.rfld pgSafe 0x50C 0 8 = 16 ∧ t.saf.flash = s.saf.flash ∧ t.saf.upBusy = true) ∧
    (let img := s.slotImg s.dev.upTgt
     let body := leNat (img 0x10 4)
     s.dev.upOpen = true → leNat (img 0 4) = 0x4D495644 → body % 64 = 0 → body + 0x240 ≤ z →
     (∀ i, i < 0x40 → s.fl (base + z - 0x40 + i) = 0xFF) →
     ∃ t u, exec (.finish m false none) s = .next t ∧ t.rfld pgSafe 0x50C 0 8 = 0 ∧ t.saf.upBusy = true ∧
       t.saf.flash = s.saf.flash ∧ t.dev = s.dev ∧ exec .updateCommandDone t = .next u ∧ u.rfld pgSafe 0x50C 0 8 = 0 ∧
       u.dev.upOpen = false ∧ u.flBytes (base + z - 0x40) 0x3C = recBytes s.dev.upSeq (imgDigest img) ∧
       u.flBytes (base + z - 4) 4 = natLE (crc32c (recBytes s.dev.upSeq (imgDigest img))).toNat 4 ∧
       (t.saf.intake.length ≤ Config.logIntake →
         ∃ e, u.saf.intake = [e] ∧ e.code = 0x70 ∧ e.d0 = w32 s.dev.upTgt ∧ e.d1 = s.dev.upSeq)) ∧
    (∃ t, exec (.abort m) s = .next t ∧ t.dev.upOpen = false ∧ t.saf.flash = s.saf.flash ∧ t.saf.upBusy = true) ∧
    (∀ cmd : BitVec 3, cmd ∉ [1, 2, 3, 4, 5] → ∃ t, exec (.upcmdUnknown m cmd) s = .next t ∧
      t.rfld pgSafe 0x50C 0 8 = 2 ∧ t.saf.flash = s.saf.flash ∧ t.dev = s.dev)) ∧
  (∀ (s : State), (s.saf.upBusy = true → s.saf.up.left = [] → exec .updateCommandDone s =
      .next (({ s with saf := { s.saf with upBusy := false, up := Prog.empty } }).flag pgSafe 7)) ∧
    (s.saf.upBusy = false → exec .updateCommandDone s = .next s) ∧
    (s.saf.ksBusy = true → ∃ t, exec .keyStoreCommandDone s = .next t ∧
      t = { s with saf := { s.saf with ksBusy := false }, regs := t.regs } ∧ t.rbit pgSafe pgRaw 6 = true ∧
      ∀ i, i < 12 → t.reg pgSafe (0x300 + 4 * i) = 0) ∧
    (s.saf.ksBusy = false → exec .keyStoreCommandDone s = .next s)) ∧
  (∀ (s : State) m v, WriteReaches s m pgSafe →
    (s.saf.ksBusy = true → exec (.kscmdUnknown m v) s = .next (wrote s m pgSafe)) ∧
    (s.saf.ksBusy = false → let slot := fld v 8 4
      (fld v 0 3 = 1 → ∃ t, exec (.load m v) s = .next t ∧ t.rfld pgSafe 0x34C 0 8 = 0 ∧ t.saf.ksBusy = true ∧
        t.key slot = some { bytes := s.regBytes pgSafe 0x300 12, loupe := bit v 16, mac := bit v 17 } ∧
        (∀ i, i ≠ slot → t.key i = s.key i) ∧ ∀ i, i < 12 → t.reg pgSafe (0x300 + 4 * i) = 0) ∧
      (fld v 0 3 = 2 → ∃ t, exec (.clear m v) s = .next t ∧ t.rfld pgSafe 0x34C 0 8 = 0 ∧ t.key slot = none ∧
        ∀ i, i ≠ slot → t.key i = s.key i) ∧
      (fld v 0 3 = 3 → ∃ t, exec (.zeroall m v) s = .next t ∧ t.rfld pgSafe 0x34C 0 8 = 0 ∧ t.saf.keys = [] ∧
        LoggedOne s t 0x61 3 0) ∧
      (fld v 0 3 = 4 → let a := (s.reg pgSafe 0x344).toNat
        let n := s.rfld pgSafe 0x348 0 13
        1 ≤ n → n ≤ 4096 → a % 8 = 0 → 0x02000000 ≤ a → a + n ≤ 0x02800000 →
        (s.key slot = none → ∃ t, exec (.mac m v) s = .next t ∧ t.rfld pgSafe 0x34C 0 8 = 11) ∧
        (∀ k, s.key slot = some k → k.mac = false → ∃ t, exec (.mac m v) s = .next t ∧
          t.rfld pgSafe 0x34C 0 8 = 12) ∧
        (∀ k, s.key slot = some k → k.mac = true → (∀ r, r < 4 → s.regUp r = true) →
          (∀ i, i < n → s.syn (a - 0x01800000 + i) = 0) → s.rclear = [] → s.saf.rcWait = [] →
          ∃ t, exec (.mac m v) s = .next t ∧ t.rfld pgSafe 0x34C 0 8 = 0 ∧ t.saf.keys = s.saf.keys ∧
            ∀ i, i < 12 → t.reg pgSafe (0x350 + 4 * i) =
              w32 (leNat (((hmac384 k.bytes (s.bytesAt (a - 0x01800000) n)).drop (4 * i)).take 4)))) ∧
      (fld v 0 3 ∉ [1, 2, 3, 4] → ∃ t, exec (.kscmdUnknown m v) s = .next t ∧ t.rfld pgSafe 0x34C 0 8 = 2 ∧
        t.saf.keys = s.saf.keys))) ∧
  (∀ (s : State) mask, s.saf.por = false → mask ≠ 0 → ∃ t, exec (.tamper mask) s = .next t ∧ t.saf.keys = [] ∧
    t.saf.ksBusy = false ∧ t.rbit pgSafe pgRaw 8 = true ∧
    (s.saf.ksBusy = true → t.rfld pgSafe 0x34C 0 8 = 14 ∧ t.rbit pgSafe pgRaw 6 = true))

/-- KNOCK, RESPOND, RESPONSE_CHECK, DARKSLIDE, CLOSE, CHALLENGE_TIMEOUT and SESSION_TIMEOUT (R367 to R371). STATE codes: 0
CLOSED, 1 CHALLENGE, 2 CHECK, 3 ARMED, 4 OPEN. That a challenge timeout keeps the nonce, and that seconds are counted in fabric
cycles, is the model's choice (log entry 47). -/
def Obligations.LoupeSession : Prop :=
  (∀ (s : State), FramesAlone s →
    (s.lpState ≠ 0 → ∃ t, exec .knock s = .next t ∧ FrameDone s t ∧ t.units = s.units ∧ t.lpState = s.lpState ∧
      t.rfld pgLoupe 0x040 24 4 = 5 ∧ t.saf.keys = s.saf.keys) ∧
    (s.lpState = 0 → s.life = 0 → ∃ t, exec .knock s = .next t ∧ FrameDone s t ∧ t.units = s.units ∧ t.lpState = 3 ∧
      t.rbit pgLoupe pgRaw 1 = true ∧ t.draws = s.draws) ∧
    (s.lpState = 0 → s.life = 1 → (s.lou.failT = 0 ∨ s.lou.failT + second ≤ s.tim.cyc + 1) →
      ∃ t, exec .knock s = .next t ∧ FrameDone s t ∧ t.units = s.units ∧ t.lpState = 1 ∧
        t.lou.nonce = Config.entropy s.draws ∧ t.draws = s.draws + 1 ∧ t.lou.lastT = s.tim.cyc) ∧
    (s.lpState = 0 → s.life = 1 → s.lou.failT ≠ 0 → s.tim.cyc + 1 < s.lou.failT + second →
      ∃ t, exec .knock s = .next t ∧ FrameDone s t ∧ t.lpState = 0 ∧ t.rfld pgLoupe 0x040 24 4 = 4 ∧
        t.draws = s.draws) ∧
    (s.lpState = 0 → s.life = 2 → ∃ t, exec .knock s = .next t ∧ FrameDone s t ∧ t.units = s.units ∧ t.lpState = 0 ∧
      t.rfld pgLoupe 0x040 24 4 = 1 ∧
      LoggedOne s t 0x63 (w32 (1 * 256 + 2)) (w32 (2 * 256 + s.rfld pgLoupe 0x040 8 4))) ∧
    (s.lpState = 1 → ∃ t, exec .respond s = .next t ∧ FrameDone s t ∧ t.lpState = 2 ∧ t.units = s.units) ∧
    (s.lpState ≠ 1 → ∃ t, exec .respond s = .next t ∧ FrameDone s t ∧ t.lpState = s.lpState ∧ t.units = s.units) ∧
    (s.lpState ≠ 4 → ∃ t, exec .close s = .next t ∧ FrameDone s t ∧ t.lpState = s.lpState ∧ t.units = s.units) ∧
    (s.lpState = 4 → ∃ t, exec .close s = .next t ∧ FrameDone s t ∧ t.lpState = 0 ∧ t.rbit pgLoupe pgRaw 1 = true ∧
      t.rfld pgLoupe 0x040 24 4 = 0 ∧ LoggedOne s t 0x63 3 (w32 (s.life * 256 + s.rfld pgLoupe 0x040 8 4)) ∧
      (∀ p n, p < 144 → n < 4 → t.rbit (pgUnit p) (0x570 + 32 * n) 31 = false) ∧
      ∀ p, p < 144 → (t.u p).dbg.byLoupe = false ∧ (t.u p).g = (s.u p).g ∧
        (t.u p).dbg.req = ((s.u p).dbg.req && !(s.u p).dbg.byLoupe))) ∧
  (∀ (s : State), s.saf.por = false → s.lpState = 2 →
    let msg := natLE s.lou.nonce.toNat 48 ++ natLE s.coordDie.toNat 4
    let key := s.key (s.rfld pgLoupe 0x040 8 4)
    ∃ t, exec .responseCheck s = .next t ∧ t.lou.nonce = 0 ∧ t.units = s.units ∧ t.saf.keys = s.saf.keys ∧
      (∀ k, key = some k → k.loupe = true → hmac384 k.bytes msg = s.regBytes pgLoupe 0x0C0 12 →
        t.lpState = 3 ∧ t.lou.failT = s.lou.failT) ∧
      (∀ k, key = some k → k.loupe = true → hmac384 k.bytes msg ≠ s.regBytes pgLoupe 0x0C0 12 →
        t.lpState = 0 ∧ t.rfld pgLoupe 0x040 24 4 = 3 ∧ t.lou.failT = s.tim.cyc + 1 ∧
        t.rfld pgLoupe 0x040 16 8 = min (s.rfld pgLoupe 0x040 16 8 + 1) 255) ∧
      ((key = none ∨ ∃ k, key = some k ∧ k.loupe = false) → t.lpState = 0 ∧ t.rfld pgLoupe 0x040 24 4 = 2 ∧
        t.rfld pgLoupe 0x040 16 8 = s.rfld pgLoupe 0x040 16 8)) ∧
  (∀ (s : State), s.saf.por = false →
    (s.lpState ≠ 2 → exec .responseCheck s = .next s) ∧
    (s.lpState ≠ 3 → exec .darkslide s = .next s) ∧
    (s.lpState = 3 → s.lou.darkBanks = false → ∃ t, exec .darkslide s = .next t ∧ t.saf.keys = [] ∧
      t.units = s.units ∧ t.mem = s.mem ∧
      (s.secretBanks = [] → t.lpState = 4) ∧
      (s.secretBanks ≠ [] → t.lpState = 3 ∧ t.lou.darkBanks = true ∧
        ∀ c b, (c, b) ∈ s.secretBanks → b ∈ (t.c c).clearing))) ∧
  (∀ (s : State),
    (s.lpState = 1 → s.lou.lastT + 10 * second ≤ s.tim.cyc → ∃ t, exec .challengeTimeout s = .next t ∧
      t.lpState = 0 ∧ t.rfld pgLoupe 0x040 24 4 = 6 ∧ t.lou.nonce = s.lou.nonce ∧ t.units = s.units ∧
      LoggedOne s t 0x63 (w32 (6 * 256 + 2)) (w32 (s.life * 256 + s.rfld pgLoupe 0x040 8 4))) ∧
    ((s.lpState ≠ 1 ∨ s.tim.cyc < s.lou.lastT + 10 * second) → exec .challengeTimeout s = .next s) ∧
    (s.lpState = 4 → s.lou.lastT + 10 * second ≤ s.tim.cyc → ∃ t, exec .sessionTimeout s = .next t ∧
      t.lpState = 0 ∧ t.rfld pgLoupe 0x040 24 4 = 6 ∧
      LoggedOne s t 0x63 (w32 (6 * 256 + 3)) (w32 (s.life * 256 + s.rfld pgLoupe 0x040 8 4)) ∧
      ∀ p n, p < 144 → n < 4 → t.rbit (pgUnit p) (0x570 + 32 * n) 31 = false) ∧
    ((s.lpState ≠ 4 ∨ s.tim.cyc < s.lou.lastT + 10 * second) → exec .sessionTimeout s = .next s))

/-- The box whose record of a write is `w` has not been written in this cycle. -/
def FirstWrite (s : State) (w : Option BoxW) : Prop := ∀ q, w = some q → q.cyc ≠ s.tim.cyc

/-- LOUPE_PULSE, LOUPE_FRAME_TIMEOUT, LOUPE_RESET, RD, WR, LPREQ_REQ, LPREQ_ALL, LPMBTX_WRITE, LPMBRX_READ,
DBGMBOUT_WRITE and DBGMBIN_READ (R362 to R366, R372, R374, R375). The model's choices: UNKNOWN is answered before LOCKED (log
entry 46), and a unit in its reset state after LOUPE_RESET has EBASE and pc 0 (log entry 10). -/
def Obligations.LoupeFrames : Prop :=
  (∀ (s : State) n early, s.saf.por = false →
    (n ≤ 1 → exec (.loupePulse n early) s = .next s) ∧
    (2 ≤ n → n ≤ 15 → s.inFrame = false → exec (.loupePulse n early) s = .next s) ∧
    (∀ l, 2 ≤ n → n ≤ 15 → s.lou.frame = some l → l.length < frameLen l → early = false →
      let g := l ++ [decide (7 ≤ n)]
      let u : State := { s with lou := { s.lou with frame := some g } }
      let num := fun (lo k : Nat) => bitsLE ((g.drop lo).take k)
      let crc := fun (lo : Nat) => BitVec.ofNat 8 (bitsLE ((g.drop lo).take 8).reverse)
      exec (.loupePulse n early) s =
        if g.length < frameLen g then .next u
        else if frameLen g = 58 then exec (.wr (BitVec.ofNat 10 (num 8 10)) (w32 (num 18 32)) (crc 50)) u
        else exec (.rd (BitVec.ofNat 8 (num 0 8)) (BitVec.ofNat 10 (num 8 10)) (crc 18)) u) ∧
    (((2 ≤ n ∧ n ≤ 15 ∧ s.inFrame = true ∧ early = true) ∨ (16 ≤ n ∧ n ≤ 79)) →
      ∃ t, exec (.loupePulse n early) s = .next t ∧ t.lou = { s.lou with frame := none } ∧ t.units = s.units ∧
        t.rfld pgLoupe 0x114 16 8 = min (s.rfld pgLoupe 0x114 16 8 + 1) 255) ∧
    (80 ≤ n → n ≤ 239 → exec (.loupePulse n early) s = .next { s with lou := { s.lou with frame := some [] } }) ∧
    (240 ≤ n → n ≤ 319 → ∃ t, exec (.loupePulse n early) s = .next t ∧ t.lou = { s.lou with frame := none } ∧
      t.rfld pgLoupe 0x114 0 8 = min (s.rfld pgLoupe 0x114 0 8 + 1) 255 ∧ t.units = s.units) ∧
    (320 ≤ n → s.lou.low = true → exec (.loupePulse n early) s = .next
      { s with lou := { s.lou with low := false, frame := none } }) ∧
    (s.inFrame = false → exec .loupeFrameTimeout s = .next { s with lou := { s.lou with frame := none } }) ∧
    (s.inFrame = true → ∃ t, exec .loupeFrameTimeout s = .next t ∧ t.lou = { s.lou with frame := none } ∧
      t.rfld pgLoupe 0x114 16 8 = min (s.rfld pgLoupe 0x114 16 8 + 1) 255) ∧
    (s.lou.low = true → exec .loupeReset s = .next s) ∧
    (s.lou.low = false → ∃ t, exec .loupeReset s = .next t ∧ t.lou.low = true ∧ t.dev.due = true ∧
      t.rfld pgSafe 0x040 24 4 = 1 ∧ (∀ p, t.u p = UnitSt.reset 0) ∧ t.mem = s.mem)) ∧
  (∀ (s : State), FramesAlone s →
    (∀ cmd off crc, crc ≠ rdCrc cmd off → ∃ t, exec (.rd cmd off crc) s = .next t ∧ t.lou.status = 1 ∧
      t.rfld pgLoupe 0x114 8 8 = min (s.rfld pgLoupe 0x114 8 8 + 1) 255 ∧ t.units = s.units ∧ t.saf = s.saf) ∧
    (∀ off v crc, crc ≠ wrCrc off v → ∃ t, exec (.wr off v crc) s = .next t ∧ t.lou.status = 1 ∧
      t.rfld pgLoupe 0x114 8 8 = min (s.rfld pgLoupe 0x114 8 8 + 1) 255 ∧ t.units = s.units ∧ t.saf = s.saf) ∧
    (∀ cmd off, cmd ≠ 1 → exec (.rd cmd off (rdCrc cmd off)) s = .next (refusedRd s 3)) ∧
    (∀ off v, let o := 4 * off.toNat
      let n := if loupeReg o = false then 3 else if s.lpState ≠ 4 ∧ openReg o = false then 2 else 0
      n ≠ 0 → exec (.wr off v (wrCrc off v)) s = .next (refusedWr s n) ∧
        exec (.rd 1 off (rdCrc 1 off)) s = .next (refusedRd s n)) ∧
    (∃ t, exec (.rd 1 0x45 (rdCrc 1 0x45)) s = .next t ∧ t.lou.status = 0 ∧ t.lou.rdata = s.reg pgLoupe 0x114 ∧
      t.lou.resp = respBits 0 (some (s.reg pgLoupe 0x114)) ∧ t.rfld pgLoupe 0x114 0 24 = 0 ∧ t.units = s.units) ∧
    (s.lpState = 4 → ∀ v, ∃ t, exec (.wr 0x41 v (wrCrc 0x41 v)) s = .next t ∧ FrameDone s t ∧
      t.lou.resp = respBits 0 none ∧ t.rfld pgLoupe 0x104 0 8 = fld v 0 8 ∧ t.lou.lastT = s.tim.cyc ∧
      t.units = s.units) ∧
    (s.lpState ≠ 4 → exec .lpmbrxRead s = .next (refusedRd s 2) ∧
      ∀ g v i, i ∈ [Instr.lpreqAll, .lpreqReq g, .lpmbtxWrite v] → exec i s = .next (refusedWr s 2))) ∧
  (∀ (s : State), FramesAlone s → s.lpState = 4 →
    let reach := fun g => g ≤ 143 ∧ s.unitUp (s.resetTarget g) = true ∧
      (uOf (s.resetTarget g) ≠ 8 ∨ (s.c (cOf (s.resetTarget g))).urepl ≠ none)
    (∀ g : Byte, let p := s.resetTarget g.toNat
      (¬reach g.toNat → ∃ t, exec (.lpreqReq g) s = .next t ∧ FrameDone s t ∧ t.rbit pgLoupe 0x100 29 = true ∧
        t.units = s.units) ∧
      (reach g.toNat → (s.u p).mode ≠ 3 → ∃ t, exec (.lpreqReq g) s = .next t ∧ FrameDone s t ∧
        (t.u p).dbg.req = true ∧ ((s.u p).dbg.stepping = false → (t.u p).dbg.byLoupe = true) ∧
        ∀ q, q ≠ p → t.u q = s.u q) ∧
      (reach g.toNat → (s.u p).mode = 3 → ∃ t, exec (.lpreqReq g) s = .next t ∧ FrameDone s t ∧
        t.rbit pgLoupe 0x100 29 = s.rbit pgLoupe 0x100 29 ∧ t.units = s.units)) ∧
    (∃ t, exec .lpreqAll s = .next t ∧ FrameDone s t ∧
      (∀ g, g % 9 ≠ 8 → reach g → (s.u (s.resetTarget g)).mode ≠ 3 → (t.u (s.resetTarget g)).dbg.req = true) ∧
      ((∀ g, g % 9 ≠ 8 → ¬reach g) → t.rbit pgLoupe 0x100 29 = true)) ∧
    (let p := s.lpUnit
     (143 < s.rfld pgLoupe 0x104 0 8 → exec .lpmbrxRead s = .next (refusedRd s 3) ∧
       ∀ v, exec (.lpmbtxWrite v) s = .next (refusedWr s 3)) ∧
     (s.rfld pgLoupe 0x104 0 8 ≤ 143 → s.unitUp p = false → exec .lpmbrxRead s = .next (refusedRd s 4) ∧
       ∀ v, exec (.lpmbtxWrite v) s = .next (refusedWr s 4)) ∧
     (s.rfld pgLoupe 0x104 0 8 ≤ 143 → s.unitUp p = true →
       let d := (s.u p).dbg
       (∀ v, d.inbox = none → ∃ t, exec (.lpmbtxWrite v) s = .next t ∧ FrameDone s t ∧
         (t.u p).dbg.inbox = some v ∧ (FirstWrite s d.inW → (t.u p).dbg.inW = some ⟨s.tim.cyc, none⟩) ∧
         ∀ q, q ≠ p → t.u q = s.u q) ∧
       (∀ v w, d.inbox = some w → ∃ t, exec (.lpmbtxWrite v) s = .next t ∧ FrameDone s t ∧
         (t.u p).dbg.inbox = some w ∧ t.rbit (pgUnit p) 0x544 29 = true ∧
         (FirstWrite s d.inW → t.u p = { s.u p with dbg := { d with
           inW := some ⟨s.tim.cyc, some (v, s.rbit (pgUnit p) 0x544 29)⟩ } }) ∧ ∀ q, q ≠ p → t.u q = s.u q) ∧
       ∃ t, exec .lpmbrxRead s = .next t ∧ FrameDone s t ∧ (t.u p).g = (s.u p).g ∧ (∀ q, q ≠ p → t.u q = s.u q) ∧
         (FirstWrite s d.outW → t.lou.rdata = d.outbox.getD 0 ∧ (t.u p).dbg.outbox = none) ∧
         (d.outW = some ⟨s.tim.cyc, none⟩ → t.lou.rdata = 0 ∧ (t.u p).dbg.outbox = d.outbox) ∧
         (∀ v o, d.outW = some ⟨s.tim.cyc, some (v, o)⟩ → t.lou.rdata = d.outbox.getD 0 ∧
           (t.u p).dbg.outbox = some v ∧ t.rbit (pgUnit p) 0x544 29 = o ∧ t.rbit pgLoupe pgRaw 0 = true)))) ∧
  (∀ (s : State) (p : UnitIx), let pg := pgUnit p.val
    s.reaches (.unit p) pg = true → s.served pg = true → s.physPage pg = pg → s.pageBusy pg = false →
    let d := (s.u p.val).dbg
    (∀ v, (s.u p.val).mode = 3 → d.outbox = none → ∃ t, exec (.dbgmboutWrite p v) s = .next t ∧
      (t.u p.val).dbg.outbox = some v ∧ t.rbit pgLoupe pgRaw 0 = true ∧
      (FirstWrite s d.outW → (t.u p.val).dbg.outW = some ⟨s.tim.cyc, none⟩) ∧ ∀ q, q ≠ p.val → t.u q = s.u q) ∧
    (∀ v w, (s.u p.val).mode = 3 → d.outbox = some w → ∃ t, exec (.dbgmboutWrite p v) s = .next t ∧
      (t.u p.val).dbg.outbox = some w ∧ t.rbit pg 0x544 29 = true ∧
      (FirstWrite s d.outW → (t.u p.val).dbg.outW = some ⟨s.tim.cyc, some (v, s.rbit pg 0x544 29)⟩)) ∧
    (∀ v, (s.u p.val).mode ≠ 3 → ∃ t, exec (.dbgmboutWrite p v) s = .next t ∧
      (t.u p.val).dbg.outbox = (s.u p.val).dbg.outbox ∧
      t.rbit pgLoupe pgRaw 0 = s.rbit pgLoupe pgRaw 0) ∧
    (∃ t, exec (.dbgmbinRead p) s = .next t ∧ t.rresp = 0 ∧ (∀ q, q ≠ p.val → t.u q = s.u q) ∧
      ((s.u p.val).mode = 3 →
        (FirstWrite s d.inW → t.rdata = d.inbox.getD 0 ∧ (t.u p.val).dbg.inbox = none) ∧
        (d.inW = some ⟨s.tim.cyc, none⟩ → t.rdata = 0 ∧ (t.u p.val).dbg.inbox = d.inbox) ∧
        (∀ v o, d.inW = some ⟨s.tim.cyc, some (v, o)⟩ → t.rdata = d.inbox.getD 0 ∧ (t.u p.val).dbg.inbox = some v ∧
          t.rbit pg 0x544 29 = o ∧
          (s.unitUp p.val = true → (s.u p.val).locked = false → (s.u p.val).stat = .run → (t.u p.val).evt = true))) ∧
      ((s.u p.val).mode ≠ 3 → t.rdata = 0 ∧ t.units = s.units)))

/-- PWCTL_GO, POWER_TRANSITION_STEP, PWREL, CKUDIV_WRITE, PCACK, CKACK, CKACK_DROP, PCSLPREQ, CORE_OK_FALL,
CORE_POWER_ON_RESET, SAFELIGHT_POWER_ON_RESET and SAFELIGHT_POR_RELEASE (R341, R383, R384, R388 to R396). State codes: 0
RUN, 1 IDLE, 2 NAP, 3 SLEEP, 4 OFF. The model's choices in it: that a part that goes OFF is in its reset state at once (log
entry 25), what the fall of CORE_OK does and that memory keeps its bytes until the core power-on reset empties it (26), DONE
at once for an unused link port and the time of an acknowledge (27), and the stop at a PCACK that no PCREQ asked for (6). -/
def Obligations.PowerTransitions : Prop :=
  (∀ (s : State) m v, WriteReaches s m pgPower → bit v 31 = true → let d := s.rfld pgPower 0x040 0 9
    let tgt := fld v 0 3
    (s.goOk d tgt = false → exec (.pwctlGo m v) s = .next ((wrote s m pgPower).setBit pgPower 0x044 30 true)) ∧
    ((s.pw.busy = true ∨ 268 < d ∨ 4 < tgt ∨ d = 265 ∨ (tgt = 2 ∧ 244 ≤ d) ∨ (s.idleSpare d = true ∧ tgt ≤ 1) ∨
      s.replaced d = true) → s.goOk d tgt = false) ∧
    (s.goOk d tgt = true → s.stepsTo d tgt = [] → ∃ t, exec (.pwctlGo m v) s = .next t ∧ t = { wrote s m pgPower with regs := t.regs } ∧
      t.rbit pgPower pgRaw 0 = true) ∧
    (s.goOk d tgt = true → s.stepsTo d tgt ≠ [] → ∃ t, exec (.pwctlGo m v) s = .next t ∧ PowerOnly s m t ∧
      t.pw.busy = true ∧ t.pw.go = true ∧ t.pw.steps = s.pw.steps ++ s.stepsTo d tgt ∧ t.pw.dom = s.pw.dom) ∧
    (266 ≤ d → s.linkUsed (d - 266) = false → s.stepsTo d tgt = []) ∧
    (d < 144 → s.awake (224 + d / 9) = true → s.stepsTo d tgt = if s.dom d = tgt then [] else [⟨d, tgt⟩])) ∧
  (∀ (s : State) timeout, s.saf.por = false →
    (s.pw.steps = [] → exec (.powerTransitionStep timeout) s = .next s) ∧
    (∀ x l, s.pw.steps = x :: l → s.stepReady x = false → exec (.powerTransitionStep timeout) s = .next s) ∧
    (∀ (p : UnitIx), s.pw.rst = [] → s.pw.wait = [] → s.pw.wake = [] → s.levelRegions = [] →
      (s.pw.steps = [⟨p.val, 4⟩] → s.awake p.val = true → ∃ t, exec (.powerTransitionStep timeout) s = .next t ∧
        t.dom p.val = 4 ∧ t.u p.val = UnitSt.reset s.dev.entry ∧ t.pw.busy = false ∧ t.pw.steps = [] ∧
        (s.pw.go = true → t.rbit pgPower pgRaw 0 = true) ∧ (∀ q, q ≠ p.val → t.u q = s.u q) ∧ t.mem = s.mem) ∧
      (s.pw.steps = [⟨p.val, 2⟩] → s.awake p.val = true → s.clean p.val = true →
        ∃ t, exec (.powerTransitionStep timeout) s = .next t ∧ t.dom p.val = 2 ∧ t.pw.busy = false ∧
          t.units = s.units ∧ t.mem = s.mem) ∧
      (s.pw.steps = [⟨p.val, 0⟩] → s.dom p.val = 2 → bit s.pw.ckack 0 = true → (s.u p.val).stat ≠ .held →
        ∃ t, exec (.powerTransitionStep timeout) s = .next t ∧ t.dom p.val = 0 ∧ t.pw.busy = false ∧
          (t.u p.val).g = (s.u p.val).g ∧ (t.u p.val).pc = (s.u p.val).pc ∧ ∀ q, q ≠ p.val → t.u q = s.u q) ∧
      (s.pw.steps = [⟨p.val, 0⟩] → s.dom p.val = 4 → s.pw.acked = true → bit s.pw.ckack 0 = true → s.started = true →
        s.cluUp (cOf p.val) = true → s.wakeHeld (cOf p.val / 4) = false → s.holds 4 p.val = false → uOf p.val ≠ 8 →
        ∃ t, exec (.powerTransitionStep timeout) s = .next t ∧ t.dom p.val = 0 ∧
          t.u p.val = { UnitSt.reset s.dev.entry with stat := .run } ∧ ∀ q, q ≠ p.val → t.u q = s.u q)) ∧
    (∀ d tgt, 3 ≤ rankOf (s.dom d) → s.awake d = true → tgt = 2 → s.stepReady ⟨d, tgt⟩ = s.clean d) ∧
    (∀ d tgt, (s.dom d = 3 ∨ s.dom d = 4) → tgt ≤ 1 → s.pw.acked = false → s.stepReady ⟨d, tgt⟩ = false)) ∧
  (∀ (s : State) m v, WriteReaches s m pgPower →
    ((∀ r, r < 4 → bit v r = true → s.rbit pgPower 0x04C r = false) → exec (.pwrel m v) s = .next (wrote s m pgPower)) ∧
    ∃ t, exec (.pwrel m v) s = .next t ∧ t.mem = s.mem ∧ t.pw = s.pw ∧
      (∀ r, r < 4 → t.rbit pgPower 0x04C r = (s.rbit pgPower 0x04C r && !bit v r)) ∧
      ∀ p, p < 144 → bit v (cOf p / 4) = true → s.rbit pgPower 0x04C (cOf p / 4) = true → cOf p / 4 ∉ s.pw.wake →
        s.started = true → s.cluUp (cOf p) = true → s.holds 4 p = false → s.awake p = true → (s.u p).stat = .held →
        (s.u p).locked = false → uOf p ≠ 8 → t.u p = { UnitSt.reset s.dev.entry with stat := .run }) ∧
  (∀ (s : State) m v, WriteReaches s m pgClocks → ∃ t, exec (.ckudivWrite m v) s = .next t ∧
    t = { wrote s m pgClocks with regs := t.regs } ∧ t.reg pgClocks 0x040 &&& 0x3333 = v &&& 0x3333 ∧
    ∀ k, k ≠ rkey pgClocks 0x040 → Tab.get (regDef k) t.regs k = Tab.get (regDef k) s.regs k) ∧
  (∀ (s : State), (s.pw.pcreq = true → exec .pcack s = .next { s with pw := { s.pw with acked := true } }) ∧
    (s.pw.pcreq = false → exec .pcack s = .fault .uninvitedPcack) ∧
    (∀ i : Fin 7, (∃ t, exec (.ckack i) s = .next t ∧ t = { s with pw := { s.pw with ckack := t.pw.ckack } } ∧
        ∀ j, j < 7 → bit t.pw.ckack j = (decide (j = i.val) || bit s.pw.ckack j)) ∧
      ∃ t, exec (.ckackDrop i) s = .next t ∧ t = { s with pw := { s.pw with ckack := t.pw.ckack } } ∧
        ∀ j, j < 7 → bit t.pw.ckack j = (!decide (j = i.val) && bit s.pw.ckack j)) ∧
    (s.saf.por = false → s.awake 244 = true → exec .pcslpreq s = .next (s.flag pgPower 1)) ∧
    ((s.saf.por = true ∨ s.awake 244 = false) → exec .pcslpreq s = .next s) ∧
    (s.pw.coreOk = false → exec .coreOkFall s = .next s) ∧
    (s.pw.coreOk = true → ∃ t, exec .coreOkFall s = .next t ∧ t.pw.coreOk = false ∧ (∀ d, d < 266 → t.dom d = 4) ∧
      (∀ p, t.u p = UnitSt.reset 0) ∧ t.saf = { s.saf with flight := none } ∧ t.mem = s.mem) ∧
    (∀ straps, (s.pw.coreOk = true → exec (.corePowerOnReset straps) s = .next s) ∧
      (s.pw.coreOk = false → s.saf.por = true → exec (.corePowerOnReset straps) s = .next
        { s with pw := { s.pw with coreOk := true, dom := allDown } }) ∧
      (s.pw.coreOk = false → s.saf.por = false → ∃ t, exec (.corePowerOnReset straps) s = .next t ∧
        t.pw.coreOk = true ∧ t.dev.due = true ∧ t.dev.pon = true ∧
        t.saf = { s.saf with straps := straps, flight := none, dvBusy := false, rcBusy := false, dv := Prog.empty,
                             rc := Prog.empty, rcWait := [] } ∧
        t.mem = [] ∧ (∀ d, t.dom d = if d < 265 then 4 else domDef d) ∧ ∀ p, t.u p = UnitSt.reset 0) ∧
      (s.saf.por = false → exec (.safelightPorRelease straps) s = .next s) ∧
      (s.saf.por = true → ∃ t, exec (.safelightPorRelease straps) s = .next t ∧ t.saf.por = false ∧
        t.saf.straps = straps ∧ LoggedOne s t 0x01 0 0 ∧ t.units = s.units)) ∧
    (s.saf.por = true → exec .safelightPowerOnReset s = .next s) ∧
    (s.saf.por = false → ∃ t, exec .safelightPowerOnReset s = .next t ∧ t.saf.por = true ∧ t.saf.otp = s.saf.otp ∧
      t.saf.flash = s.saf.flash ∧ t.saf.keys = [] ∧ t.saf.intake = [] ∧ t.pending = s.pending ∧
      ∀ p, t.u p = UnitSt.reset 0))

/-- WARM_RESET, REGION_RESET, CLUSTER_RESET, UNIT_RESET, REEL_RESET, RSTCTL_REFUSED and RESET_RELEASE (R27, R63, R154,
R279, R396, R397). That a warm reset leaves every unit with EBASE and pc 0 until the next firmware starts is the model's
choice (log entry 10). -/
def Obligations.ResetRequests : Prop :=
  (∀ (s : State) m, WriteReaches s m pgPower →
    (∃ t, exec (.warmReset m) s = .next t ∧ t.dev.due = true ∧ t.rfld pgSafe 0x040 24 4 = 2 ∧
      (∀ p, t.u p = UnitSt.reset 0) ∧ t.mem = s.mem ∧ t.saf.otp = s.saf.otp ∧ t.saf.safe = false ∧
      t.rfld pgDev 0x040 28 4 = 0 ∧ t.reg 0 0x054 = 0 ∧ t.lpState = 0) ∧
    (∀ r : RegionIx, (¬ScopeFree s 2 r.val → ∃ t, exec (.regionReset m r) s = .next t ∧ PowerOnly s m t ∧
        t.pw.rst = s.pw.rst ++ [(2, r.val)]) ∧
      (ScopeFree s 2 r.val → s.awake (240 + r.val) = true → ∃ t, exec (.regionReset m r) s = .next t ∧
        Scope.region r ∈ t.pw.held ∧
        (∀ p, p < 144 → cOf p / 4 = r.val → 2 ≤ rankOf (s.dom (224 + cOf p)) → t.u p = UnitSt.reset s.dev.entry) ∧
        (∀ p, p < 144 → (cOf p / 4 ≠ r.val ∨ rankOf (s.dom (224 + cOf p)) ≤ 1) → t.u p = s.u p) ∧ t.mem = s.mem ∧ ∀ c, (t.c c).wcs = (s.c c).wcs)) ∧
    (∀ c : ClusterIx, (¬ScopeFree s 3 c.val → ∃ t, exec (.clusterReset m c) s = .next t ∧ PowerOnly s m t ∧
        t.pw.rst = s.pw.rst ++ [(3, c.val)]) ∧
      (ScopeFree s 3 c.val → s.awake (224 + c.val) = true → ∃ t, exec (.clusterReset m c) s = .next t ∧
        Scope.cluster c ∈ t.pw.held ∧ (∀ p, p < 144 → cOf p = c.val → t.u p = UnitSt.reset s.dev.entry) ∧
        (∀ p, p < 144 → cOf p ≠ c.val → t.u p = s.u p) ∧ t.mem = s.mem ∧
        (t.c c.val).urepl = none ∧ (t.c c.val).rrepl = none ∧ (t.c c.val).rows = (s.c c.val).rows ∧
        ∀ c', (t.c c').wcs = (s.c c').wcs)) ∧
    (∀ g : UnitIx, let p := s.resetTarget g.val
      (¬ScopeFree s 4 g.val → ∃ t, exec (.unitReset m g) s = .next t ∧ PowerOnly s m t ∧
        t.pw.rst = s.pw.rst ++ [(4, g.val)]) ∧
      (ScopeFree s 4 g.val → s.awake p = false → s.dom p ≠ 2 → ∃ t, exec (.unitReset m g) s = .next t ∧
        t = { wrote s m pgPower with regs := t.regs }) ∧
      (ScopeFree s 4 g.val → s.awake p = true → ∃ t, exec (.unitReset m g) s = .next t ∧
        (∃ q : UnitIx, q.val = p ∧ Scope.unit q ∈ t.pw.held) ∧ t.u p = UnitSt.reset s.dev.entry ∧
        (∀ q, q ≠ p → t.u q = s.u q) ∧ t.mem = s.mem ∧
        ∀ n, n < 64 → s.logU p < 8 → ((s.c (cOf p)).lk n).holder = some (s.logU p) →
          ((t.c (cOf p)).lk n).holder = none ∧ ((t.c (cOf p)).lk n).aband = true)) ∧
    (∀ n : ReelIx, let r := s.physR n.val
      ScopeFree s 5 n.val → s.awake (144 + r) = true → ∃ t, exec (.reelReset m n) s = .next t ∧
        t.r r = { ReelSt.reset with pm := (s.r r).pm, pmSynd := (s.r r).pmSynd, pq := (s.r r).pq } ∧ (∀ q, q ≠ r → t.r q = s.r q) ∧
        t.units = s.units ∧ t.mem = s.mem) ∧
    (∀ v, (fld v 16 16 ≠ 0xC1EA ∨ fld v 12 3 ∉ [1, 2, 3, 4, 5] ∨
        ¬fld v 0 9 < ([0, 1, 4, 16, 144, 80, 0, 0].getD (fld v 12 3) 0)) →
      exec (.rstctlRefused m v) s = .next ((wrote s m pgPower).setBit pgPower 0x044 30 true))) ∧
  (∀ (s : State), (∀ sc, sc ∉ s.pw.held → exec (.resetRelease sc) s = .next s) ∧
    (∀ p : UnitIx, Scope.unit p ∈ s.pw.held → s.started = true → s.cluUp (cOf p.val) = true →
      s.wakeHeld (cOf p.val / 4) = false → s.awake p.val = true → (s.u p.val).stat = .held →
      (s.u p.val).locked = false → uOf p.val ≠ 8 → ∃ t, exec (.resetRelease (.unit p)) s = .next t ∧
        Scope.unit p ∉ t.pw.held ∧ t.u p.val = { UnitSt.reset s.dev.entry with stat := .run } ∧
        (∀ q, q ≠ p.val → t.u q = s.u q) ∧ t.mem = s.mem) ∧
    (∀ r : ReelIx, Scope.reel r ∈ s.pw.held → s.started = true → s.cluUp (rC r.val) = true →
      s.wakeHeld (rR r.val) = false → s.awake (144 + r.val) = true → rE r.val ≠ 4 →
      (s.c (rC r.val)).rrepl ≠ some (rE r.val) → ∃ t, exec (.resetRelease (.reel r)) s = .next t ∧
        Scope.reel r ∉ t.pw.held ∧ t.r r.val = { s.r r.val with held := false } ∧ t.units = s.units))

/-- DL_LINK_UP, DL_LINK_DOWN, HELLO_FLIT, TIME_FLIT, READ_FLIT, WRITE_FLIT, AMOADD_FLIT, AMOSWP_FLIT, RESPONSE_FLIT,
SNAP_FLIT, BAD_FLIT and LINKREQ_HOLD_END (R26, R34 to R39, R248, R262, R413, R414). The model's choices in it: how claims are
judged and kept, the fields that a response echoes, when a hello exchange ends and the jump to a far time (log entry 48), and
the stop at a response nobody asked for (log entry 6). -/
def Obligations.DieLinks : Prop :=
  (∀ (s : State) (j : Fin 3),
    (s.linkReady j.val = true → (s.l j.val).up = false → ∃ t, exec (.dlLinkUp j) s = .next t ∧
      t = { s with links := t.links } ∧ (∀ i, i ≠ j.val → t.l i = s.l i) ∧
      t.l j.val = { s.l j.val with
        up := true, upAt := s.tim.cyc,
        tx := (s.l j.val).tx ++ [(7, dataFlit (b2n (bit s.saf.straps 6) * 4 + s.die))] }) ∧
    ((s.linkReady j.val = false ∨ (s.l j.val).up = true) → exec (.dlLinkUp j) s = .next s) ∧
    ((s.l j.val).up = false → exec (.dlLinkDown j) s = .next s ∧ ∀ f h k,
      (∀ i, i ∈ [Instr.helloFlit j f, .timeFlit j f h, .readFlit j f, .writeFlit j f, .amoaddFlit j f, .amoswpFlit j f,
        .responseFlit j f, .snapFlit j f, .badFlit j k f] → exec i s = .next s)) ∧
    ((s.l j.val).up = true → (s.l j.val).out = [] → ∃ t, exec (.dlLinkDown j) s = .next t ∧ t.units = s.units ∧
      t.l j.val = { s.l j.val with up := false, out := [], tx := [], wait := [] } ∧ ∀ i, i ≠ j.val → t.l i = s.l i) ∧
    (∀ (p : UnitIx) k job, (s.l j.val).up = true → (s.l j.val).out = [(p.val, k)] → k < 16 →
      (s.u p.val).stat = .die job j.val → (s.u p.val).micro = none → (s.u p.val).ee = true →
      ∃ t, exec (.dlLinkDown j) s = .next t ∧
        (t.l j.val).up = false ∧ (t.l j.val).out = [] ∧
        Entered s t p job.acc.fault 6 (s.u p.val).pc (job.descr 6 0) job.va) ∧
    (∀ k f, (s.l j.val).up = true → (9 ≤ k.toNat ∨ f.rsv ≠ 0) → (s.l j.val).out = [] →
      ∃ t, exec (.badFlit j k f) s = .next t ∧ (t.l j.val).up = false ∧ (t.l j.val).hold = true ∧ t.units = s.units) ∧
    (∀ k f, k.toNat < 9 → f.rsv = 0 → exec (.badFlit j k f) s = .next s) ∧
    (∃ t, exec (.linkreqHoldEnd j) s = .next t ∧ t = { s with links := t.links } ∧
      t.l j.val = { s.l j.val with hold := false } ∧ ∀ i, i ≠ j.val → t.l i = s.l i)) ∧
  (∀ (s : State) (j : Fin 3) f, (s.l j.val).up = true → f.rsv = 0 →
    (∃ t, exec (.helloFlit j f) s = .next t ∧ t.units = s.units ∧ (∀ i, i ≠ j.val → t.l i = s.l i) ∧
      t.l j.val = { s.l j.val with
        hello := some (bit f.data 2, fld f.data 0 2), trip := s.tim.cyc - (s.l j.val).upAt } ∧
      (t.helloAll = true → 1 < t.claims → LoggedOne s t 0x31 (w32 t.masterDie) 0) ∧
      (t.helloAll = true → t.claims = 0 → LoggedOne s t 0x32 (w32 t.masterDie) 0) ∧
      ((t.helloAll = false ∨ t.claims = 1) → t.saf = s.saf)) ∧
    (let h := (s.l j.val).trip / 2
      let at' := f.data.toNat + h
      let off : Int := (at' : Int) - (s.T : Int)
      let mine := s.follower = true ∧ s.portTo s.masterDie = j.val ∧ s.awake 263 = true
      (∀ x, (¬mine ∨ x ≠ h) → exec (.timeFlit j f x) s = .next s) ∧
      (mine → -1000 ≤ off → off ≤ 1000 → ∃ t, exec (.timeFlit j f h) s = .next t ∧ t.tim.slew = 2 * off ∧
        t.tim.free = false ∧ t.tim.base = s.tim.base ∧ t.units = s.units ∧
        t.rbit pgTime 0x06C 30 = decide (-5 ≤ off ∧ off ≤ 5)) ∧
      (mine → (off < -1000 ∨ 1000 < off) → ∃ t, exec (.timeFlit j f h) s = .next t ∧
        t.tim.jump = some off ∧ t.tim.base = s.tim.base ∧ t.saf = s.saf ∧ t.units = s.units ∧
        (AtEdge s → s.tim.stepPend = false → ∃ u, exec .timeStep t = .next u ∧ u.tim.jump = none ∧ u.tim.slew = 0 ∧
          u.tim.base = ((((s.tim.base + s.effInc : Nat) : Int) + off * 2 ^ 24) % 2 ^ 88).toNat / 2 ^ 8 * 2 ^ 8 ∧
          u.rbit pgTime 0x06C 30 = true ∧ LoggedOne t u 0x30 (w32 s.T) (w32 (s.T / 2 ^ 32))))) ∧
    (s.follower = true → s.portTo s.masterDie = j.val → s.awake 244 = true → s.T + 1000 ≤ f.data.toNat →
      ∃ t, exec (.snapFlit j f) s = .next t ∧ t = { s with regs := t.regs } ∧ t.rbit pgSheet 0x048 31 = true ∧
        t.reg pgSheet 0x040 = w32 f.data.toNat ∧ t.reg pgSheet 0x044 = w32 (f.data.toNat / 2 ^ 32)) ∧
    ((s.follower = false ∨ s.portTo s.masterDie ≠ j.val ∨ s.awake 244 = false) →
      exec (.snapFlit j f) s = .next s)) ∧
  (∀ (s : State) (j : Fin 3) f, (s.l j.val).up = true → f.rsv = 0 → let r := f.region.toNat
    let k := regKey r f.off.toNat
    let base := k / 8 * 8
    let wk := k / 4 * 4
    let sh := k % 8 / 4 * 32
    let reqs := [(1, Instr.readFlit j f), (2, .writeFlit j f), (3, .amoaddFlit j f), (4, .amoswpFlit j f)]
    let out := fun x : Flit => { s.l j.val with tx := (s.l j.val).tx ++ [(5, x)] }
    (∀ q, q ∈ reqs → (s.l j.val).wait = [] → s.regUp r = false → ∃ t, exec q.2 s = .next t ∧
      t = { s with links := t.links } ∧ t.l j.val = out { f with resp := 1, data := 0 }) ∧
    (∀ q, q ∈ reqs → ((s.l j.val).wait ≠ [] ∨ (s.regUp r = true ∧ s.farFree j.val f = false)) →
      ∃ t, exec q.2 s = .next t ∧ t = { s with links := t.links } ∧
        t.l j.val = { s.l j.val with wait := (s.l j.val).wait ++ [(q.1, f)] }) ∧
    (RegionAnswers s j r f.off.toNat →
      (∃ t, exec (.readFlit j f) s = .next t ∧ t = { s with links := t.links, arb := t.arb } ∧
        ∃ d : DWord, t.l j.val = out { f with resp := 0, data := d } ∧
          ∀ b, b < 8 → lane d b = if bit f.be b then s.byte (base + b) else 0) ∧
      (∃ t, exec (.writeFlit j f) s = .next t ∧ t = { s with links := t.links, arb := t.arb, mem := t.mem, synd := t.synd } ∧
        t.l j.val = out { f with resp := 0, data := 0 } ∧ Untouched s t base 8 ∧
        ∀ b, b < 8 → t.byte (base + b) = if bit f.be b then lane f.data b else s.byte (base + b)) ∧
      (∃ t, exec (.amoaddFlit j f) s = .next t ∧ Untouched s t wk 4 ∧ t.units = s.units ∧
        t.leN wk 4 = (s.leN wk 4 + fld f.data sh 32) % 2 ^ 32 ∧
        t.l j.val = out { f with resp := 0, data := BitVec.ofNat 64 (s.leN wk 4 * 2 ^ sh) }) ∧
      ∃ t, exec (.amoswpFlit j f) s = .next t ∧ Untouched s t wk 4 ∧ t.units = s.units ∧
        t.leN wk 4 = fld f.data sh 32 ∧
        t.l j.val = out { f with resp := 0, data := BitVec.ofNat 64 (s.leN wk 4 * 2 ^ sh) })) ∧
  (∀ (s : State) (j : Fin 3) f, (s.l j.val).up = true → f.rsv = 0 → f.resp ≠ 3 →
    ((∀ q, q ∈ (s.l j.val).out → flitSrc q.1 ≠ f.src) →
      exec (.responseFlit j f) s = .fault .spuriousResponseFlit) ∧
    (∀ (p : UnitIx) k l job, f.src.toNat = p.val → (s.l j.val).out = (p.val, k) :: l → k < 16 →
      (s.u p.val).stat = .die job j.val →
      (∀ rd sg, f.resp = 0 → job.acc = .load → job.after = .reg rd sg →
        let v := f.data.toNat / 2 ^ (8 * (job.va.toNat % 8)) % 2 ^ (8 * bytesOf job.size)
        Unwatched s p 27 job.va (w32 v) → ∃ t, exec (.responseFlit j f) s = .next t ∧
          OnlyUnit { s with links := t.links } t p.val ∧ (t.l j.val).out = l ∧
          EndsFrom ((s.u p.val).setG rd (extend job.size sg v)) t p job.len) ∧
      (f.resp = 1 → (s.u p.val).micro = none → (s.u p.val).ee = true → ∃ t, exec (.responseFlit j f) s = .next t ∧ (t.l j.val).out = l ∧
        Entered s t p job.acc.fault 5 (s.u p.val).pc (job.descr 5 0) job.va)))

/-- SOFT_RESET, PGCTL_LOCK, PGIRQ_TEST, REGISTER_WRITE and HOST_INTERRUPT_LINE (R8, R358, R408, R409, R418 to R422). That a
soft reset keeps the decode table, and which registers a locked page discards, is the model's reading (log entry 18), and
where a line goes after its page stops is the model's choice (log entry 51). -/
def Obligations.PageHeader : Prop :=
  (∀ (s : State) m (page : BitVec 14) k i, kindOf page.toNat = some (k, i) → WriteReaches s m page.toNat →
    let p := s.physPage page.toNat
    (PlainReset k → ∃ t, exec (.softReset m page) s = .next t ∧ t = { wrote s m p with regs := t.regs } ∧
      t.reg p pgRaw = 0 ∧ t.reg p pgEn = 0 ∧
      (∀ r off, r ∈ rowsOf k → off ∈ r.offs → ¬(k = .common ∧ 0x100 ≤ off ∧ off < 0x180) →
        t.reg p off &&& (r.rw ||| r.w1c) = r.reset &&& (r.rw ||| r.w1c) ∧
        t.reg p off &&& ~~~(r.rw ||| r.w1c) = s.reg p off &&& ~~~(r.rw ||| r.w1c)) ∧
      (k = .common → ∀ off, 0x100 ≤ off → off < 0x180 → t.reg p off = s.reg p off) ∧
      ∀ q off, q ≠ p → off < 0x1000 → t.reg q off = s.reg q off) ∧
    (∃ t, exec (.softReset m page) s = .next t ∧ t.reg p pgEn = 0 ∧ (k ∉ [PK.reel, .fport] → t.reg p pgRaw = 0)) ∧
    (∃ t, exec (.pgctlLock m page) s = .next t ∧ t.rbit p pgCtl 31 = true ∧ t.units = s.units ∧
      (k ≠ .reel → t = (wrote s m p).setBit p pgCtl 31 true)) ∧
    (∀ v, k ≠ .reel → exec (.pgirqTest m page v) s =
      .next ((wrote s m p).setReg p pgRaw (s.reg p pgRaw ||| (v &&& irqMask k)))) ∧
    (∀ reg v, k ∈ [PK.ident, .host, .clocks, .xbar] → 0x10 ≤ reg.toNat →
      (rowAt k (4 * reg.toNat) = none → exec (.registerWrite m page reg v) s = .next (wrote s m p)) ∧
      ∀ r, rowAt k (4 * reg.toNat) = some r → ∃ t, exec (.registerWrite m page reg v) s = .next t ∧
        t = { wrote s m p with regs := t.regs } ∧
        (∀ x, x < 32 → t.rbit p (4 * reg.toNat) x = if bit r.rw x then bit v x else s.rbit p (4 * reg.toNat) x) ∧
        ∀ x, x ≠ rkey p (4 * reg.toNat) → Tab.get (regDef x) t.regs x = Tab.get (regDef x) s.regs x) ∧
    (∀ v, k ≠ .reel → (∃ t, exec (.registerWrite m page 0x004 v) s = .next t ∧ t.reg p pgRaw = s.reg p pgRaw &&& ~~~v) ∧
      ∃ t, exec (.registerWrite m page 0x005 v) s = .next t ∧ t.reg p pgEn = v &&& irqMask k)) ∧
  (∀ (s : State) m (page : BitVec 14) k i reg v, kindOf page.toNat = some (k, i) → s.reaches m page.toNat = true →
    s.served page.toNat = true → s.rbit (s.physPage page.toNat) pgCtl 31 = true → lockedReg k (4 * reg.toNat) = true →
    s.pageHeld m page.toNat = false → s.storeBusy page.toNat (4 * reg.toNat) = false → let p := s.physPage page.toNat
    ∃ t, exec (.registerWrite m page reg v) s = .next t ∧ (k ≠ .reel → t = { wrote s m p with regs := t.regs }) ∧
      t.rfld p lockErr 0 16 = min (s.rfld p lockErr 0 16 + 1) 0xFFFF ∧ t.rfld p lockErr 18 10 = reg.toNat ∧
      ∀ x, x ≠ rkey p lockErr → Tab.get (regDef x) t.regs x = Tab.get (regDef x) s.regs x) ∧
  (∀ (s : State) m (page : BitVec 14) reg v, (s.served page.toNat = false ∨ s.reaches m page.toNat = false) →
    (m ≠ .host ∨ s.hostBusy = false) →
    ∀ i, i ∈ [Instr.registerWrite m page reg v, .softReset m page, .pgctlLock m page, .pgirqTest m page v] →
      exec i s = .next { s with rresp := if m ≠ .host then s.rresp else if (kindOf page.toNat).isNone then 2 else 1 }) ∧
  (∀ (s : State) m (page : BitVec 14) reg v, let q : PgReq := ⟨m, page.toNat, 4 * reg.toNat, some v, false, none⟩
    (m = .host → s.hostBusy = true →
      exec (.registerWrite m page reg v) s = .next { s with pgs := { s.pgs with host := s.pgs.host ++ [q] } }) ∧
    ((∀ n, kindOf page.toNat ≠ some (.reel, n)) → (m = .host → s.hostBusy = false) → s.reaches m page.toNat = true →
      s.pageBusy page.toNat = true →
      exec (.registerWrite m page reg v) s = .next { s with pgs := { s.pgs with wait := s.pgs.wait ++ [q] } })) ∧
  (∀ (s : State) (n : Fin 64), let r := s.reg 0x008 (0x300 + 4 * n.val)
    ∃ t, exec (.hostInterruptLine n) s = .next t ∧ t = { s with irqs := t.irqs } ∧
      bit t.irqs n.val = (s.awake 244 && bit r 31 && s.summary (fld r 0 14)) ∧
      ∀ j, j < 64 → j ≠ n.val → bit t.irqs j = bit s.irqs j)

/-- R47, of an MTS that issues. Bit [16] and the other reserved bits take no part. -/
def Obligations.UserStatusWrites : Prop :=
  ∀ (s : State) (p : UnitIx) f, let v := (s.u p.val).gr (sprOps f).2
    let old := (s.u p.val).spr.estat
    sprBad f = false → (sprOps f).1 = 9 → (s.u p.val).mode = 0 → Issues s p (encSpr 1 1 f) →
    ((∀ i, i ∈ guardedBits → bit v i = bit old i) →
      ∃ t, exec (.mts p f) s = .next t ∧ OnlyUnit s t p.val ∧ (∀ k, (t.u p.val).gr k = (s.u p.val).gr k) ∧
        (∀ i, i < 32 → bit (t.u p.val).spr.estat i =
          if i ∈ [0, 1, 2, 3, 4, 9, 10, 11] then bit v i else bit old i)) ∧
    (∀ i, i ∈ guardedBits → bit v i ≠ bit old i →
      ((s.u p.val).ee = true → ∃ t, exec (.mts p f) s = .next t ∧
        Entered s t p 0x03 0 (s.u p.val).pc (encSpr 1 1 f).info 0) ∧
      ((s.u p.val).ee = false → ∃ t, exec (.mts p f) s = .next t ∧ (t.u p.val).locked = true ∧
        (t.u p.val).spr.estat = old ∧ ∀ k, (t.u p.val).gr k = (s.u p.val).gr k))

/-- The step of the block: the first command that waits, or one fabric cycle (the model's choices; log entries 1, 20, 26). -/
def Obligations.StepIsExec : Prop :=
  (∀ (s : State) c q, s.pending = c :: q → step s = exec c { s with pending := q }) ∧
  (∀ (s : State) c, step { s with pending := c :: s.pending } = exec c s) ∧
  (∀ (s : State), s.pending = [] → s.saf.por = true →
    (s.saf.pgood = true → step s = .next s) ∧
    (s.saf.pgood = false →
      step s = .next { s with saf := { s.saf with pgood := Config.inRange s.draws }, draws := s.draws + 1 })) ∧
  (∀ (s : State), s.pending = [] → s.saf.por = false → ∃ t, step s = .next t ∧ t.tim.cyc = s.tim.cyc + 1)

/-- What R63, R154, R243, R386, R396 and the register tables give at reset. That the state after reset has every switched
domain OFF, no clock acknowledged and SL_POR in the log intake is the model's choice of the moment (log entries 8 and 11). -/
def Obligations.ResetState : Prop :=
  let s := State.reset
  s.pending = [] ∧ Memory.wf s = true ∧
    (∀ p, (s.u p).stat = .held ∧ (s.u p).spr.estat = 0x44000 ∧ (s.u p).mode = 1 ∧ (s.u p).ee = false ∧
      (∀ k, (s.u p).gr k = 0) ∧ (s.u p).spr.rs = [] ∧ (s.u p).locked = false ∧ s.unitUp p = false) ∧
    (∀ r, (s.r r).held = true ∧ s.reelUp r = false) ∧
    (∀ d, d < 265 → s.dom d = 4) ∧ s.dom 265 = 0 ∧ s.ckhs = 0 ∧ s.pw.pcreq = false ∧
    s.T = 0 ∧ s.lpState = 0 ∧ s.dev.due = true ∧ s.saf.por = false ∧ s.started = false ∧
    (s.saf.intake.map fun e => e.code) = [1] ∧
    (∀ k, Tab.get (regDef k) s.regs k = regDef k) ∧ s.reg pgSafe 0x150 = 0x025801F4 ∧
    (∀ i, i < 16 → s.reg (pgPort i) 0x040 = 0x40FF05F2) ∧ s.reg pgTime 0x044 = 0x08000000 ∧
    ∀ c, c < 16 → s.reg (pgNeg c) 0x040 = 0xC0000000 ∧ s.reg (pgCommon c) 0x180 = 0x800

/-- The SECDED code of R227, its columns as the table gives them, and the classes of R228, and the store of R94 over
them. -/
def Obligations.MemoryCode : Prop :=
  hCols =
    [0x07, 0x0B, 0x0D, 0x0E, 0x13, 0x15, 0x16, 0x19, 0x1A, 0x1C, 0x23, 0x25, 0x26, 0x29, 0x2A, 0x2C, 0x31, 0x32,
    0x34, 0x38, 0x43, 0x45, 0x46, 0x49, 0x4A, 0x4C, 0x51, 0x52, 0x54, 0x58, 0x61, 0x62, 0x64, 0x68, 0x70, 0x83,
    0x85, 0x86, 0x89, 0x8A, 0x8C, 0x91, 0x92, 0x94, 0x98, 0xA1, 0xA2, 0xA4, 0xA8, 0xB0, 0xC1, 0xC2, 0xC4, 0xC8,
    0xD0, 0xE0, 0x1F, 0x2F, 0x37, 0x3B, 0x3D, 0x3E, 0x4F, 0x57] ∧
  secded 0 = 0 ∧
  (∀ (d : DWord) i h, hCols[i]? = some h →
    secded (d ^^^ BitVec.ofNat 64 (2 ^ i)) = secded d ^^^ h ∧ synClass (BitVec.ofNat 8 h) = .corr ∧
    fixWord (d ^^^ BitVec.ofNat 64 (2 ^ i)) (BitVec.ofNat 8 h) = d) ∧
  (∀ (d : DWord) j, j < 8 → synClass (BitVec.ofNat 8 (2 ^ j)) = .corr ∧ fixWord d (BitVec.ofNat 8 (2 ^ j)) = d) ∧
  (∀ (i j a b : Nat), hCols[i]? = some a → hCols[j]? = some b → i ≠ j → synClass (BitVec.ofNat 8 (a ^^^ b)) = .unc) ∧
  (∀ (i a j : Nat), hCols[i]? = some a → j < 8 → synClass (BitVec.ofNat 8 (a ^^^ 2 ^ j)) = .unc) ∧
  (∀ (i j : Nat), i < 8 → j < 8 → i ≠ j → synClass (BitVec.ofNat 8 (2 ^ i ^^^ 2 ^ j)) = .unc) ∧
  (∀ (s : State) k n, k % 8 + n ≤ 8 → s.syn k = 0 → s.memRead k n = (.ok, s.leN k n, s)) ∧
  (∀ (s : State) k n v, synClass (s.syn k) = .unc → (s.memMerge k n v).1 = .unc ∧ (s.memMerge k n v).2.mem = s.mem ∧
    (s.memMerge k n v).2.synd = s.synd) ∧
  (∀ (s : State) k n v, k % 8 + n ≤ 8 → synClass (s.syn k) = .corr → let t := (s.memMerge k n v).2
    t.leN k n = v % 2 ^ (8 * n) ∧ t.syn k = 0 ∧ (∀ i, (i < k / 8 * 8 ∨ k / 8 * 8 + 8 ≤ i) → t.byte i = s.byte i) ∧
    ∀ i, k / 8 * 8 ≤ i → i < k / 8 * 8 + 8 → (i < k ∨ k + n ≤ i) →
      (t.byte i).toNat = (s.word8 k).toNat / 2 ^ (8 * (i % 8)) % 256)

/-- R65 to R80 and R166: no bit of an encoding is dropped, and every encoding has one meaning. -/
def Obligations.Encodings : Prop :=
  (∀ i p e, encOf i = some (p, e) → wellFormed i = true → EncShape e ∧ decodeUnit p e = i) ∧
  (∀ (p : UnitIx) e, EncShape e → encOf (decodeUnit p e) = some (p, e) ∧ wellFormed (decodeUnit p e) = true) ∧
  (∀ op f, riOf (encRi op f) = f ∧ fld (encRi op f) 27 5 = op.toNat) ∧
  (∀ w, encRi (w.extractLsb' 27 5) (riOf w) = w) ∧
  (∀ r k f, decodeReel r k (encRi 0x01 f) = .ldi r k f ∧ decodeReel r k (encRi 0x02 f) = .ldhi r k f ∧
    decodeReel r k (encRi 0x03 f) = .reelMov r k f ∧ decodeReel r k (encRi 0x04 f) = .alua r k f ∧
    decodeReel r k (encRi 0x05 f) = .alub r k f ∧ decodeReel r k (encRi 0x06 f) = .sample r k f ∧
    decodeReel r k (encRi 0x07 f) = .shin r k f ∧ decodeReel r k (encRi 0x08 f) = .shout r k f ∧
    decodeReel r k (encRi 0x09 f) = .drive r k f ∧ decodeReel r k (encRi 0x0A f) = .oe r k f ∧
    decodeReel r k (encRi 0x0B f) = .waitpin r k f ∧ decodeReel r k (encRi 0x0C f) = .waittime r k f ∧
    decodeReel r k (encRi 0x0D f) = .waitbit r k f ∧ decodeReel r k (encRi 0x0E f) = .jmp r k f ∧
    decodeReel r k (encRi 0x0F f) = .djnz r k f ∧ decodeReel r k (encRi 0x10 f) = .reelPush r k f ∧
    decodeReel r k (encRi 0x11 f) = .pull r k f ∧ decodeReel r k (encRi 0x12 f) = .crc r k f ∧
    decodeReel r k (encRi 0x13 f) = .irq r k f ∧ decodeReel r k (encRi 0x14 f) = .tstamp r k f ∧
    decodeReel r k (encRi 0x15 f) = .setbt r k f ∧ decodeReel r k (encRi 0x16 f) = .hsync r k f ∧
    decodeReel r k (encRi 0x17 f) = .stop r k f) ∧
  (∀ r k w, reelNopWf w = true → decodeReel r k w = .reelNop r k w)

/-- The canonical form of bank and region memory is an invariant of every step (R5, R263, R271). -/
def Obligations.MemoryStaysCanonical : Prop :=
  ∀ (s t : State), Memory.wf s = true → step s = .next t → Memory.wf t = true
end

