-- ==== Sys2Proof/Laws/Bits.lean ====
section
/-! SUPPORT. Laws of bit fields. -/

namespace Sys2Proof

theorem bit_ones {n : Nat} (lo len i : Nat) (h : i < n) :
    (ones lo len : BitVec n).getLsbD i = decide (lo ≤ i ∧ i < lo + len) := by
  unfold ones
  rw [BitVec.getLsbD_ofNat, Nat.testBit_shiftLeft, Nat.testBit_two_pow_sub_one]
  by_cases h1 : lo ≤ i <;> by_cases h2 : i < lo + len <;> simp [h, h1, h2] <;> omega

/-- A bit of a word after a field is replaced. -/
theorem bit_ins {n : Nat} (w : BitVec n) (lo len v i : Nat) (h : i < n) :
    bit (ins w lo len v) i = if lo ≤ i ∧ i < lo + len then v.testBit (i - lo) else bit w i := by
  unfold bit ins
  rw [BitVec.getLsbD_or, BitVec.getLsbD_and, BitVec.getLsbD_and, BitVec.getLsbD_not, bit_ones lo len i h,
    BitVec.getLsbD_ofNat, Nat.testBit_shiftLeft]
  by_cases h1 : lo ≤ i <;> by_cases h2 : i < lo + len <;> simp [h, h1, h2]

/-- A bit of a word after one bit is replaced. -/
theorem bit_insBit {n : Nat} (w : BitVec n) (j i : Nat) (b : Bool) (h : i < n) :
    bit (insBit w j b) i = if i = j then b else bit w i := by
  unfold insBit
  rw [bit_ins w j 1 _ i h]
  by_cases h1 : i = j
  · subst h1; cases b <;> simp
  · rw [if_neg (by omega), if_neg h1]

theorem testBit_fld {n : Nat} (w : BitVec n) (lo len i : Nat) :
    (fld w lo len).testBit i = (decide (i < len) && w.getLsbD (lo + i)) := by
  unfold fld
  rw [Nat.testBit_mod_two_pow, Nat.testBit_shiftRight]
  rfl

/-- A field of a word after the same field is replaced. -/
theorem fld_ins_same {n : Nat} (w : BitVec n) (lo len v : Nat) (h : lo + len ≤ n) :
    fld (ins w lo len v) lo len = v % 2 ^ len := by
  apply Nat.eq_of_testBit_eq
  intro i
  rw [testBit_fld, Nat.testBit_mod_two_pow]
  by_cases hi : i < len
  · have := bit_ins w lo len v (lo + i) (by omega)
    unfold bit at this
    rw [this]
    simp [hi]
  · simp [hi]

/-- A field of a word after a disjoint field is replaced. -/
theorem fld_ins_disjoint {n : Nat} (w : BitVec n) (lo len v a l : Nat) (h : a + l ≤ lo ∨ lo + len ≤ a) (hn : a + l ≤ n) :
    fld (ins w lo len v) a l = fld w a l := by
  apply Nat.eq_of_testBit_eq
  intro i
  rw [testBit_fld, testBit_fld]
  by_cases hi : i < l
  · have := bit_ins w lo len v (a + i) (by omega)
    unfold bit at this
    rw [this, if_neg (by omega)]
  · simp [hi]

end Sys2Proof
end

