-- ==== Sys2Proof/Laws/Tab.lean ====
section
/-! SUPPORT. Laws of sparse tables: reads after writes, and the canonical form. -/

namespace Sys2Proof

variable {α : Type}

theorem Tab.get_put (d : α) (t : Tab α) (i j : Nat) (v : α) :
    Tab.get d (Tab.put i v t) j = if j = i then v else Tab.get d t j := by
  induction t with
  | nil => simp only [Tab.put, Tab.get, eq_comm]
  | cons e t ih =>
    obtain ⟨k, w⟩ := e
    simp only [Tab.put]
    split
    · simp only [Tab.get, eq_comm (a := i)]
    · next h1 =>
      split
      · next h2 => subst h2; simp only [Tab.get, eq_comm (a := i)]; by_cases h : j = i <;> simp [h]
      · next h2 =>
        simp only [Tab.get, ih]
        by_cases h : k = j
        · subst h; simp [Ne.symm h2]
        · simp [h]

theorem Tab.get_del (d : α) (t : Tab α) (i j : Nat) :
    Tab.get d (Tab.del i t) j = if j = i then d else Tab.get d t j := by
  induction t with
  | nil => simp [Tab.del, Tab.get]
  | cons e t ih =>
    obtain ⟨k, w⟩ := e
    simp only [Tab.del]
    by_cases h : k = i
    · subst h
      by_cases g : j = k
      · subst g; simpa using ih
      · simp [ih, Tab.get, g, Ne.symm g]
    · by_cases g : k = j
      · subst g; simp [h, Tab.get]
      · simp [h, g, Tab.get, ih]

/-- A read after a write. -/
@[simp] theorem Tab.get_set [DecidableEq α] (d : α) (t : Tab α) (i j : Nat) (v : α) :
    Tab.get d (Tab.set d t i v) j = if j = i then v else Tab.get d t j := by
  unfold Tab.set
  split
  · next h => rw [Tab.get_del, h]
  · rw [Tab.get_put]

/-- A read of another key under another default, after a write. -/
theorem Tab.get_set_ne [DecidableEq α] (d e : α) (t : Tab α) {i j : Nat} (v : α) (h : j ≠ i) :
    Tab.get e (Tab.set d t i v) j = Tab.get e t j := by
  unfold Tab.set
  split
  · rw [Tab.get_del]; simp [h]
  · rw [Tab.get_put]; simp [h]

theorem Tab.get_drop (d : α) (t : Tab α) (p : Nat → Bool) (j : Nat) :
    Tab.get d (Tab.drop p t) j = if p j then d else Tab.get d t j := by
  induction t with
  | nil => simp [Tab.drop, Tab.get]
  | cons e t ih =>
    obtain ⟨k, w⟩ := e
    simp only [Tab.drop]
    by_cases h : p k <;> by_cases g : k = j
    · subst g; simp [h, ih]
    · simp [h, ih, Tab.get, g]
    · subst g; simp [h, Tab.get]
    · simp [h, g, Tab.get, ih]

theorem Tab.above_mono [DecidableEq α] (d : Nat → α) {b c : Nat} (t : Tab α) (h : c ≤ b) (w : Tab.above d b t = true) :
    Tab.above d c t = true := by
  cases t with
  | nil => rfl
  | cons e t =>
    obtain ⟨k, v⟩ := e
    simp only [Tab.above, Bool.and_eq_true, decide_eq_true_eq] at w ⊢
    exact ⟨⟨by omega, w.1.2⟩, w.2⟩

theorem Tab.above_put [DecidableEq α] (d : Nat → α) (i : Nat) (v : α) (t : Tab α) (b : Nat) (hb : b < i) (hv : v ≠ d i)
    (w : Tab.above d b t = true) : Tab.above d b (Tab.put i v t) = true := by
  induction t generalizing b with
  | nil => simp [Tab.put, Tab.above, hb, hv]
  | cons e t ih =>
    obtain ⟨k, x⟩ := e
    simp only [Tab.above, Bool.and_eq_true, decide_eq_true_eq] at w
    simp only [Tab.put]
    split
    · next h => simp [Tab.above, hb, hv, h, w.1.2, w.2]
    · split
      · next h => subst h; simp [Tab.above, hb, hv, w.2]
      · next h1 h2 => simp [Tab.above, w.1.1, w.1.2, ih k (by omega) w.2]

theorem Tab.above_del [DecidableEq α] (d : Nat → α) (i : Nat) (t : Tab α) (b : Nat)
    (w : Tab.above d b t = true) : Tab.above d b (Tab.del i t) = true := by
  induction t generalizing b with
  | nil => rfl
  | cons e t ih =>
    obtain ⟨k, x⟩ := e
    simp only [Tab.above, Bool.and_eq_true, decide_eq_true_eq] at w
    simp only [Tab.del]
    split
    · exact Tab.above_mono d _ (Nat.le_of_lt w.1.1) (ih k w.2)
    · simp [Tab.above, w.1.1, w.1.2, ih k w.2]

theorem Tab.wf_of_above [DecidableEq α] (d : Nat → α) (t : Tab α) {b : Nat} (w : Tab.above d b t = true) :
    Tab.wf d t = true := by
  cases t with
  | nil => rfl
  | cons e t =>
    obtain ⟨k, v⟩ := e
    simp only [Tab.above, Tab.wf, Bool.and_eq_true, decide_eq_true_eq] at w ⊢
    exact ⟨w.1.2, w.2⟩

/-- A write keeps the canonical form. -/
theorem Tab.wf_set [DecidableEq α] (d : Nat → α) (t : Tab α) (i : Nat) (v : α) (w : Tab.wf d t = true) :
    Tab.wf d (Tab.set (d i) t i v) = true := by
  unfold Tab.set
  cases t with
  | nil => split <;> simp_all [Tab.del, Tab.put, Tab.wf, Tab.above]
  | cons e t =>
    obtain ⟨k, x⟩ := e
    simp only [Tab.wf, Bool.and_eq_true, decide_eq_true_eq] at w
    split
    · simp only [Tab.del]
      split
      · exact Tab.wf_of_above d _ (Tab.above_del d i t k w.2)
      · simp [Tab.wf, w.1, Tab.above_del d i t k w.2]
    · next hv =>
      simp only [Tab.put]
      split
      · next h => simp [Tab.wf, Tab.above, hv, h, w.1, w.2]
      · split
        · next h => subst h; simp [Tab.wf, hv, w.2]
        · next h1 h2 => simp [Tab.wf, w.1, Tab.above_put d i v t k (by omega) hv w.2]

theorem Tab.above_drop [DecidableEq α] (d : Nat → α) (p : Nat → Bool) (t : Tab α) (b : Nat)
    (w : Tab.above d b t = true) : Tab.above d b (Tab.drop p t) = true := by
  induction t generalizing b with
  | nil => rfl
  | cons e t ih =>
    obtain ⟨k, x⟩ := e
    simp only [Tab.above, Bool.and_eq_true, decide_eq_true_eq] at w
    simp only [Tab.drop]
    split
    · exact Tab.above_mono d _ (Nat.le_of_lt w.1.1) (ih k w.2)
    · simp [Tab.above, w.1.1, w.1.2, ih k w.2]

/-- Dropping keys keeps the canonical form. -/
theorem Tab.wf_drop [DecidableEq α] (d : Nat → α) (p : Nat → Bool) (t : Tab α) (w : Tab.wf d t = true) :
    Tab.wf d (Tab.drop p t) = true := by
  cases t with
  | nil => rfl
  | cons e t =>
    obtain ⟨k, x⟩ := e
    simp only [Tab.wf, Bool.and_eq_true, decide_eq_true_eq] at w
    simp only [Tab.drop]
    split
    · exact Tab.wf_of_above d _ (Tab.above_drop d p t k w.2)
    · simp [Tab.wf, w.1, Tab.above_drop d p t k w.2]

end Sys2Proof
end

