-- ==== Sys2Proof/Laws/State.lean ====
section
/-! SUPPORT. What an update of one component leaves: one lemma for each field and update, and reads after updates. -/

namespace Sys2Proof.Machine

variable (s : State)

/-! ### setU -/

@[simp] theorem State.setU_pending (p : Nat) (x : UnitSt) : (s.setU p x).pending = s.pending := rfl
@[simp] theorem State.setU_mem (p : Nat) (x : UnitSt) : (s.setU p x).mem = s.mem := rfl
@[simp] theorem State.setU_synd (p : Nat) (x : UnitSt) : (s.setU p x).synd = s.synd := rfl
@[simp] theorem State.setU_regs (p : Nat) (x : UnitSt) : (s.setU p x).regs = s.regs := rfl
@[simp] theorem State.setU_cnt (p : Nat) (x : UnitSt) : (s.setU p x).cnt = s.cnt := rfl
@[simp] theorem State.setU_shadow (p : Nat) (x : UnitSt) : (s.setU p x).shadow = s.shadow := rfl
@[simp] theorem State.setU_reels (p : Nat) (x : UnitSt) : (s.setU p x).reels = s.reels := rfl
@[simp] theorem State.setU_clus (p : Nat) (x : UnitSt) : (s.setU p x).clus = s.clus := rfl
@[simp] theorem State.setU_arb (p : Nat) (x : UnitSt) : (s.setU p x).arb = s.arb := rfl
@[simp] theorem State.setU_pgs (p : Nat) (x : UnitSt) : (s.setU p x).pgs = s.pgs := rfl
@[simp] theorem State.setU_fp (p : Nat) (x : UnitSt) : (s.setU p x).fp = s.fp := rfl
@[simp] theorem State.setU_tbl (p : Nat) (x : UnitSt) : (s.setU p x).tbl = s.tbl := rfl
@[simp] theorem State.setU_tim (p : Nat) (x : UnitSt) : (s.setU p x).tim = s.tim := rfl
@[simp] theorem State.setU_hreqs (p : Nat) (x : UnitSt) : (s.setU p x).hreqs = s.hreqs := rfl
@[simp] theorem State.setU_hrq (p : Nat) (x : UnitSt) : (s.setU p x).hrq = s.hrq := rfl
@[simp] theorem State.setU_links (p : Nat) (x : UnitSt) : (s.setU p x).links = s.links := rfl
@[simp] theorem State.setU_pw (p : Nat) (x : UnitSt) : (s.setU p x).pw = s.pw := rfl
@[simp] theorem State.setU_saf (p : Nat) (x : UnitSt) : (s.setU p x).saf = s.saf := rfl
@[simp] theorem State.setU_dev (p : Nat) (x : UnitSt) : (s.setU p x).dev = s.dev := rfl
@[simp] theorem State.setU_lou (p : Nat) (x : UnitSt) : (s.setU p x).lou = s.lou := rfl
@[simp] theorem State.setU_pads (p : Nat) (x : UnitSt) : (s.setU p x).pads = s.pads := rfl
@[simp] theorem State.setU_rot (p : Nat) (x : UnitSt) : (s.setU p x).rot = s.rot := rfl
@[simp] theorem State.setU_rclear (p : Nat) (x : UnitSt) : (s.setU p x).rclear = s.rclear := rfl
@[simp] theorem State.setU_irqs (p : Nat) (x : UnitSt) : (s.setU p x).irqs = s.irqs := rfl
@[simp] theorem State.setU_rdata (p : Nat) (x : UnitSt) : (s.setU p x).rdata = s.rdata := rfl
@[simp] theorem State.setU_rresp (p : Nat) (x : UnitSt) : (s.setU p x).rresp = s.rresp := rfl
@[simp] theorem State.setU_draws (p : Nat) (x : UnitSt) : (s.setU p x).draws = s.draws := rfl

/-! ### onU -/

@[simp] theorem State.onU_pending (p : Nat) (f : UnitSt → UnitSt) : (s.onU p f).pending = s.pending := rfl
@[simp] theorem State.onU_mem (p : Nat) (f : UnitSt → UnitSt) : (s.onU p f).mem = s.mem := rfl
@[simp] theorem State.onU_synd (p : Nat) (f : UnitSt → UnitSt) : (s.onU p f).synd = s.synd := rfl
@[simp] theorem State.onU_regs (p : Nat) (f : UnitSt → UnitSt) : (s.onU p f).regs = s.regs := rfl
@[simp] theorem State.onU_cnt (p : Nat) (f : UnitSt → UnitSt) : (s.onU p f).cnt = s.cnt := rfl
@[simp] theorem State.onU_shadow (p : Nat) (f : UnitSt → UnitSt) : (s.onU p f).shadow = s.shadow := rfl
@[simp] theorem State.onU_reels (p : Nat) (f : UnitSt → UnitSt) : (s.onU p f).reels = s.reels := rfl
@[simp] theorem State.onU_clus (p : Nat) (f : UnitSt → UnitSt) : (s.onU p f).clus = s.clus := rfl
@[simp] theorem State.onU_arb (p : Nat) (f : UnitSt → UnitSt) : (s.onU p f).arb = s.arb := rfl
@[simp] theorem State.onU_pgs (p : Nat) (f : UnitSt → UnitSt) : (s.onU p f).pgs = s.pgs := rfl
@[simp] theorem State.onU_fp (p : Nat) (f : UnitSt → UnitSt) : (s.onU p f).fp = s.fp := rfl
@[simp] theorem State.onU_tbl (p : Nat) (f : UnitSt → UnitSt) : (s.onU p f).tbl = s.tbl := rfl
@[simp] theorem State.onU_tim (p : Nat) (f : UnitSt → UnitSt) : (s.onU p f).tim = s.tim := rfl
@[simp] theorem State.onU_hreqs (p : Nat) (f : UnitSt → UnitSt) : (s.onU p f).hreqs = s.hreqs := rfl
@[simp] theorem State.onU_hrq (p : Nat) (f : UnitSt → UnitSt) : (s.onU p f).hrq = s.hrq := rfl
@[simp] theorem State.onU_links (p : Nat) (f : UnitSt → UnitSt) : (s.onU p f).links = s.links := rfl
@[simp] theorem State.onU_pw (p : Nat) (f : UnitSt → UnitSt) : (s.onU p f).pw = s.pw := rfl
@[simp] theorem State.onU_saf (p : Nat) (f : UnitSt → UnitSt) : (s.onU p f).saf = s.saf := rfl
@[simp] theorem State.onU_dev (p : Nat) (f : UnitSt → UnitSt) : (s.onU p f).dev = s.dev := rfl
@[simp] theorem State.onU_lou (p : Nat) (f : UnitSt → UnitSt) : (s.onU p f).lou = s.lou := rfl
@[simp] theorem State.onU_pads (p : Nat) (f : UnitSt → UnitSt) : (s.onU p f).pads = s.pads := rfl
@[simp] theorem State.onU_rot (p : Nat) (f : UnitSt → UnitSt) : (s.onU p f).rot = s.rot := rfl
@[simp] theorem State.onU_rclear (p : Nat) (f : UnitSt → UnitSt) : (s.onU p f).rclear = s.rclear := rfl
@[simp] theorem State.onU_irqs (p : Nat) (f : UnitSt → UnitSt) : (s.onU p f).irqs = s.irqs := rfl
@[simp] theorem State.onU_rdata (p : Nat) (f : UnitSt → UnitSt) : (s.onU p f).rdata = s.rdata := rfl
@[simp] theorem State.onU_rresp (p : Nat) (f : UnitSt → UnitSt) : (s.onU p f).rresp = s.rresp := rfl
@[simp] theorem State.onU_draws (p : Nat) (f : UnitSt → UnitSt) : (s.onU p f).draws = s.draws := rfl

/-! ### setR -/

@[simp] theorem State.setR_pending (r : Nat) (x : ReelSt) : (s.setR r x).pending = s.pending := rfl
@[simp] theorem State.setR_mem (r : Nat) (x : ReelSt) : (s.setR r x).mem = s.mem := rfl
@[simp] theorem State.setR_synd (r : Nat) (x : ReelSt) : (s.setR r x).synd = s.synd := rfl
@[simp] theorem State.setR_regs (r : Nat) (x : ReelSt) : (s.setR r x).regs = s.regs := rfl
@[simp] theorem State.setR_cnt (r : Nat) (x : ReelSt) : (s.setR r x).cnt = s.cnt := rfl
@[simp] theorem State.setR_shadow (r : Nat) (x : ReelSt) : (s.setR r x).shadow = s.shadow := rfl
@[simp] theorem State.setR_units (r : Nat) (x : ReelSt) : (s.setR r x).units = s.units := rfl
@[simp] theorem State.setR_clus (r : Nat) (x : ReelSt) : (s.setR r x).clus = s.clus := rfl
@[simp] theorem State.setR_arb (r : Nat) (x : ReelSt) : (s.setR r x).arb = s.arb := rfl
@[simp] theorem State.setR_pgs (r : Nat) (x : ReelSt) : (s.setR r x).pgs = s.pgs := rfl
@[simp] theorem State.setR_fp (r : Nat) (x : ReelSt) : (s.setR r x).fp = s.fp := rfl
@[simp] theorem State.setR_tbl (r : Nat) (x : ReelSt) : (s.setR r x).tbl = s.tbl := rfl
@[simp] theorem State.setR_tim (r : Nat) (x : ReelSt) : (s.setR r x).tim = s.tim := rfl
@[simp] theorem State.setR_hreqs (r : Nat) (x : ReelSt) : (s.setR r x).hreqs = s.hreqs := rfl
@[simp] theorem State.setR_hrq (r : Nat) (x : ReelSt) : (s.setR r x).hrq = s.hrq := rfl
@[simp] theorem State.setR_links (r : Nat) (x : ReelSt) : (s.setR r x).links = s.links := rfl
@[simp] theorem State.setR_pw (r : Nat) (x : ReelSt) : (s.setR r x).pw = s.pw := rfl
@[simp] theorem State.setR_saf (r : Nat) (x : ReelSt) : (s.setR r x).saf = s.saf := rfl
@[simp] theorem State.setR_dev (r : Nat) (x : ReelSt) : (s.setR r x).dev = s.dev := rfl
@[simp] theorem State.setR_lou (r : Nat) (x : ReelSt) : (s.setR r x).lou = s.lou := rfl
@[simp] theorem State.setR_pads (r : Nat) (x : ReelSt) : (s.setR r x).pads = s.pads := rfl
@[simp] theorem State.setR_rot (r : Nat) (x : ReelSt) : (s.setR r x).rot = s.rot := rfl
@[simp] theorem State.setR_rclear (r : Nat) (x : ReelSt) : (s.setR r x).rclear = s.rclear := rfl
@[simp] theorem State.setR_irqs (r : Nat) (x : ReelSt) : (s.setR r x).irqs = s.irqs := rfl
@[simp] theorem State.setR_rdata (r : Nat) (x : ReelSt) : (s.setR r x).rdata = s.rdata := rfl
@[simp] theorem State.setR_rresp (r : Nat) (x : ReelSt) : (s.setR r x).rresp = s.rresp := rfl
@[simp] theorem State.setR_draws (r : Nat) (x : ReelSt) : (s.setR r x).draws = s.draws := rfl

/-! ### onR -/

@[simp] theorem State.onR_pending (r : Nat) (f : ReelSt → ReelSt) : (s.onR r f).pending = s.pending := rfl
@[simp] theorem State.onR_mem (r : Nat) (f : ReelSt → ReelSt) : (s.onR r f).mem = s.mem := rfl
@[simp] theorem State.onR_synd (r : Nat) (f : ReelSt → ReelSt) : (s.onR r f).synd = s.synd := rfl
@[simp] theorem State.onR_regs (r : Nat) (f : ReelSt → ReelSt) : (s.onR r f).regs = s.regs := rfl
@[simp] theorem State.onR_cnt (r : Nat) (f : ReelSt → ReelSt) : (s.onR r f).cnt = s.cnt := rfl
@[simp] theorem State.onR_shadow (r : Nat) (f : ReelSt → ReelSt) : (s.onR r f).shadow = s.shadow := rfl
@[simp] theorem State.onR_units (r : Nat) (f : ReelSt → ReelSt) : (s.onR r f).units = s.units := rfl
@[simp] theorem State.onR_clus (r : Nat) (f : ReelSt → ReelSt) : (s.onR r f).clus = s.clus := rfl
@[simp] theorem State.onR_arb (r : Nat) (f : ReelSt → ReelSt) : (s.onR r f).arb = s.arb := rfl
@[simp] theorem State.onR_pgs (r : Nat) (f : ReelSt → ReelSt) : (s.onR r f).pgs = s.pgs := rfl
@[simp] theorem State.onR_fp (r : Nat) (f : ReelSt → ReelSt) : (s.onR r f).fp = s.fp := rfl
@[simp] theorem State.onR_tbl (r : Nat) (f : ReelSt → ReelSt) : (s.onR r f).tbl = s.tbl := rfl
@[simp] theorem State.onR_tim (r : Nat) (f : ReelSt → ReelSt) : (s.onR r f).tim = s.tim := rfl
@[simp] theorem State.onR_hreqs (r : Nat) (f : ReelSt → ReelSt) : (s.onR r f).hreqs = s.hreqs := rfl
@[simp] theorem State.onR_hrq (r : Nat) (f : ReelSt → ReelSt) : (s.onR r f).hrq = s.hrq := rfl
@[simp] theorem State.onR_links (r : Nat) (f : ReelSt → ReelSt) : (s.onR r f).links = s.links := rfl
@[simp] theorem State.onR_pw (r : Nat) (f : ReelSt → ReelSt) : (s.onR r f).pw = s.pw := rfl
@[simp] theorem State.onR_saf (r : Nat) (f : ReelSt → ReelSt) : (s.onR r f).saf = s.saf := rfl
@[simp] theorem State.onR_dev (r : Nat) (f : ReelSt → ReelSt) : (s.onR r f).dev = s.dev := rfl
@[simp] theorem State.onR_lou (r : Nat) (f : ReelSt → ReelSt) : (s.onR r f).lou = s.lou := rfl
@[simp] theorem State.onR_pads (r : Nat) (f : ReelSt → ReelSt) : (s.onR r f).pads = s.pads := rfl
@[simp] theorem State.onR_rot (r : Nat) (f : ReelSt → ReelSt) : (s.onR r f).rot = s.rot := rfl
@[simp] theorem State.onR_rclear (r : Nat) (f : ReelSt → ReelSt) : (s.onR r f).rclear = s.rclear := rfl
@[simp] theorem State.onR_irqs (r : Nat) (f : ReelSt → ReelSt) : (s.onR r f).irqs = s.irqs := rfl
@[simp] theorem State.onR_rdata (r : Nat) (f : ReelSt → ReelSt) : (s.onR r f).rdata = s.rdata := rfl
@[simp] theorem State.onR_rresp (r : Nat) (f : ReelSt → ReelSt) : (s.onR r f).rresp = s.rresp := rfl
@[simp] theorem State.onR_draws (r : Nat) (f : ReelSt → ReelSt) : (s.onR r f).draws = s.draws := rfl

/-! ### setChan -/

@[simp] theorem State.setChan_pending (r k : Nat) (x : Chan) : (s.setChan r k x).pending = s.pending := rfl
@[simp] theorem State.setChan_mem (r k : Nat) (x : Chan) : (s.setChan r k x).mem = s.mem := rfl
@[simp] theorem State.setChan_synd (r k : Nat) (x : Chan) : (s.setChan r k x).synd = s.synd := rfl
@[simp] theorem State.setChan_regs (r k : Nat) (x : Chan) : (s.setChan r k x).regs = s.regs := rfl
@[simp] theorem State.setChan_cnt (r k : Nat) (x : Chan) : (s.setChan r k x).cnt = s.cnt := rfl
@[simp] theorem State.setChan_shadow (r k : Nat) (x : Chan) : (s.setChan r k x).shadow = s.shadow := rfl
@[simp] theorem State.setChan_units (r k : Nat) (x : Chan) : (s.setChan r k x).units = s.units := rfl
@[simp] theorem State.setChan_clus (r k : Nat) (x : Chan) : (s.setChan r k x).clus = s.clus := rfl
@[simp] theorem State.setChan_arb (r k : Nat) (x : Chan) : (s.setChan r k x).arb = s.arb := rfl
@[simp] theorem State.setChan_pgs (r k : Nat) (x : Chan) : (s.setChan r k x).pgs = s.pgs := rfl
@[simp] theorem State.setChan_fp (r k : Nat) (x : Chan) : (s.setChan r k x).fp = s.fp := rfl
@[simp] theorem State.setChan_tbl (r k : Nat) (x : Chan) : (s.setChan r k x).tbl = s.tbl := rfl
@[simp] theorem State.setChan_tim (r k : Nat) (x : Chan) : (s.setChan r k x).tim = s.tim := rfl
@[simp] theorem State.setChan_hreqs (r k : Nat) (x : Chan) : (s.setChan r k x).hreqs = s.hreqs := rfl
@[simp] theorem State.setChan_hrq (r k : Nat) (x : Chan) : (s.setChan r k x).hrq = s.hrq := rfl
@[simp] theorem State.setChan_links (r k : Nat) (x : Chan) : (s.setChan r k x).links = s.links := rfl
@[simp] theorem State.setChan_pw (r k : Nat) (x : Chan) : (s.setChan r k x).pw = s.pw := rfl
@[simp] theorem State.setChan_saf (r k : Nat) (x : Chan) : (s.setChan r k x).saf = s.saf := rfl
@[simp] theorem State.setChan_dev (r k : Nat) (x : Chan) : (s.setChan r k x).dev = s.dev := rfl
@[simp] theorem State.setChan_lou (r k : Nat) (x : Chan) : (s.setChan r k x).lou = s.lou := rfl
@[simp] theorem State.setChan_pads (r k : Nat) (x : Chan) : (s.setChan r k x).pads = s.pads := rfl
@[simp] theorem State.setChan_rot (r k : Nat) (x : Chan) : (s.setChan r k x).rot = s.rot := rfl
@[simp] theorem State.setChan_rclear (r k : Nat) (x : Chan) : (s.setChan r k x).rclear = s.rclear := rfl
@[simp] theorem State.setChan_irqs (r k : Nat) (x : Chan) : (s.setChan r k x).irqs = s.irqs := rfl
@[simp] theorem State.setChan_rdata (r k : Nat) (x : Chan) : (s.setChan r k x).rdata = s.rdata := rfl
@[simp] theorem State.setChan_rresp (r k : Nat) (x : Chan) : (s.setChan r k x).rresp = s.rresp := rfl
@[simp] theorem State.setChan_draws (r k : Nat) (x : Chan) : (s.setChan r k x).draws = s.draws := rfl

/-! ### onCh -/

@[simp] theorem State.onCh_pending (r k : Nat) (f : Chan → Chan) : (s.onCh r k f).pending = s.pending := rfl
@[simp] theorem State.onCh_mem (r k : Nat) (f : Chan → Chan) : (s.onCh r k f).mem = s.mem := rfl
@[simp] theorem State.onCh_synd (r k : Nat) (f : Chan → Chan) : (s.onCh r k f).synd = s.synd := rfl
@[simp] theorem State.onCh_regs (r k : Nat) (f : Chan → Chan) : (s.onCh r k f).regs = s.regs := rfl
@[simp] theorem State.onCh_cnt (r k : Nat) (f : Chan → Chan) : (s.onCh r k f).cnt = s.cnt := rfl
@[simp] theorem State.onCh_shadow (r k : Nat) (f : Chan → Chan) : (s.onCh r k f).shadow = s.shadow := rfl
@[simp] theorem State.onCh_units (r k : Nat) (f : Chan → Chan) : (s.onCh r k f).units = s.units := rfl
@[simp] theorem State.onCh_clus (r k : Nat) (f : Chan → Chan) : (s.onCh r k f).clus = s.clus := rfl
@[simp] theorem State.onCh_arb (r k : Nat) (f : Chan → Chan) : (s.onCh r k f).arb = s.arb := rfl
@[simp] theorem State.onCh_pgs (r k : Nat) (f : Chan → Chan) : (s.onCh r k f).pgs = s.pgs := rfl
@[simp] theorem State.onCh_fp (r k : Nat) (f : Chan → Chan) : (s.onCh r k f).fp = s.fp := rfl
@[simp] theorem State.onCh_tbl (r k : Nat) (f : Chan → Chan) : (s.onCh r k f).tbl = s.tbl := rfl
@[simp] theorem State.onCh_tim (r k : Nat) (f : Chan → Chan) : (s.onCh r k f).tim = s.tim := rfl
@[simp] theorem State.onCh_hreqs (r k : Nat) (f : Chan → Chan) : (s.onCh r k f).hreqs = s.hreqs := rfl
@[simp] theorem State.onCh_hrq (r k : Nat) (f : Chan → Chan) : (s.onCh r k f).hrq = s.hrq := rfl
@[simp] theorem State.onCh_links (r k : Nat) (f : Chan → Chan) : (s.onCh r k f).links = s.links := rfl
@[simp] theorem State.onCh_pw (r k : Nat) (f : Chan → Chan) : (s.onCh r k f).pw = s.pw := rfl
@[simp] theorem State.onCh_saf (r k : Nat) (f : Chan → Chan) : (s.onCh r k f).saf = s.saf := rfl
@[simp] theorem State.onCh_dev (r k : Nat) (f : Chan → Chan) : (s.onCh r k f).dev = s.dev := rfl
@[simp] theorem State.onCh_lou (r k : Nat) (f : Chan → Chan) : (s.onCh r k f).lou = s.lou := rfl
@[simp] theorem State.onCh_pads (r k : Nat) (f : Chan → Chan) : (s.onCh r k f).pads = s.pads := rfl
@[simp] theorem State.onCh_rot (r k : Nat) (f : Chan → Chan) : (s.onCh r k f).rot = s.rot := rfl
@[simp] theorem State.onCh_rclear (r k : Nat) (f : Chan → Chan) : (s.onCh r k f).rclear = s.rclear := rfl
@[simp] theorem State.onCh_irqs (r k : Nat) (f : Chan → Chan) : (s.onCh r k f).irqs = s.irqs := rfl
@[simp] theorem State.onCh_rdata (r k : Nat) (f : Chan → Chan) : (s.onCh r k f).rdata = s.rdata := rfl
@[simp] theorem State.onCh_rresp (r k : Nat) (f : Chan → Chan) : (s.onCh r k f).rresp = s.rresp := rfl
@[simp] theorem State.onCh_draws (r k : Nat) (f : Chan → Chan) : (s.onCh r k f).draws = s.draws := rfl

/-! ### setC -/

@[simp] theorem State.setC_pending (c : Nat) (x : Clu) : (s.setC c x).pending = s.pending := rfl
@[simp] theorem State.setC_mem (c : Nat) (x : Clu) : (s.setC c x).mem = s.mem := rfl
@[simp] theorem State.setC_synd (c : Nat) (x : Clu) : (s.setC c x).synd = s.synd := rfl
@[simp] theorem State.setC_regs (c : Nat) (x : Clu) : (s.setC c x).regs = s.regs := rfl
@[simp] theorem State.setC_cnt (c : Nat) (x : Clu) : (s.setC c x).cnt = s.cnt := rfl
@[simp] theorem State.setC_shadow (c : Nat) (x : Clu) : (s.setC c x).shadow = s.shadow := rfl
@[simp] theorem State.setC_units (c : Nat) (x : Clu) : (s.setC c x).units = s.units := rfl
@[simp] theorem State.setC_reels (c : Nat) (x : Clu) : (s.setC c x).reels = s.reels := rfl
@[simp] theorem State.setC_arb (c : Nat) (x : Clu) : (s.setC c x).arb = s.arb := rfl
@[simp] theorem State.setC_pgs (c : Nat) (x : Clu) : (s.setC c x).pgs = s.pgs := rfl
@[simp] theorem State.setC_fp (c : Nat) (x : Clu) : (s.setC c x).fp = s.fp := rfl
@[simp] theorem State.setC_tbl (c : Nat) (x : Clu) : (s.setC c x).tbl = s.tbl := rfl
@[simp] theorem State.setC_tim (c : Nat) (x : Clu) : (s.setC c x).tim = s.tim := rfl
@[simp] theorem State.setC_hreqs (c : Nat) (x : Clu) : (s.setC c x).hreqs = s.hreqs := rfl
@[simp] theorem State.setC_hrq (c : Nat) (x : Clu) : (s.setC c x).hrq = s.hrq := rfl
@[simp] theorem State.setC_links (c : Nat) (x : Clu) : (s.setC c x).links = s.links := rfl
@[simp] theorem State.setC_pw (c : Nat) (x : Clu) : (s.setC c x).pw = s.pw := rfl
@[simp] theorem State.setC_saf (c : Nat) (x : Clu) : (s.setC c x).saf = s.saf := rfl
@[simp] theorem State.setC_dev (c : Nat) (x : Clu) : (s.setC c x).dev = s.dev := rfl
@[simp] theorem State.setC_lou (c : Nat) (x : Clu) : (s.setC c x).lou = s.lou := rfl
@[simp] theorem State.setC_pads (c : Nat) (x : Clu) : (s.setC c x).pads = s.pads := rfl
@[simp] theorem State.setC_rot (c : Nat) (x : Clu) : (s.setC c x).rot = s.rot := rfl
@[simp] theorem State.setC_rclear (c : Nat) (x : Clu) : (s.setC c x).rclear = s.rclear := rfl
@[simp] theorem State.setC_irqs (c : Nat) (x : Clu) : (s.setC c x).irqs = s.irqs := rfl
@[simp] theorem State.setC_rdata (c : Nat) (x : Clu) : (s.setC c x).rdata = s.rdata := rfl
@[simp] theorem State.setC_rresp (c : Nat) (x : Clu) : (s.setC c x).rresp = s.rresp := rfl
@[simp] theorem State.setC_draws (c : Nat) (x : Clu) : (s.setC c x).draws = s.draws := rfl

/-! ### onC -/

@[simp] theorem State.onC_pending (c : Nat) (f : Clu → Clu) : (s.onC c f).pending = s.pending := rfl
@[simp] theorem State.onC_mem (c : Nat) (f : Clu → Clu) : (s.onC c f).mem = s.mem := rfl
@[simp] theorem State.onC_synd (c : Nat) (f : Clu → Clu) : (s.onC c f).synd = s.synd := rfl
@[simp] theorem State.onC_regs (c : Nat) (f : Clu → Clu) : (s.onC c f).regs = s.regs := rfl
@[simp] theorem State.onC_cnt (c : Nat) (f : Clu → Clu) : (s.onC c f).cnt = s.cnt := rfl
@[simp] theorem State.onC_shadow (c : Nat) (f : Clu → Clu) : (s.onC c f).shadow = s.shadow := rfl
@[simp] theorem State.onC_units (c : Nat) (f : Clu → Clu) : (s.onC c f).units = s.units := rfl
@[simp] theorem State.onC_reels (c : Nat) (f : Clu → Clu) : (s.onC c f).reels = s.reels := rfl
@[simp] theorem State.onC_arb (c : Nat) (f : Clu → Clu) : (s.onC c f).arb = s.arb := rfl
@[simp] theorem State.onC_pgs (c : Nat) (f : Clu → Clu) : (s.onC c f).pgs = s.pgs := rfl
@[simp] theorem State.onC_fp (c : Nat) (f : Clu → Clu) : (s.onC c f).fp = s.fp := rfl
@[simp] theorem State.onC_tbl (c : Nat) (f : Clu → Clu) : (s.onC c f).tbl = s.tbl := rfl
@[simp] theorem State.onC_tim (c : Nat) (f : Clu → Clu) : (s.onC c f).tim = s.tim := rfl
@[simp] theorem State.onC_hreqs (c : Nat) (f : Clu → Clu) : (s.onC c f).hreqs = s.hreqs := rfl
@[simp] theorem State.onC_hrq (c : Nat) (f : Clu → Clu) : (s.onC c f).hrq = s.hrq := rfl
@[simp] theorem State.onC_links (c : Nat) (f : Clu → Clu) : (s.onC c f).links = s.links := rfl
@[simp] theorem State.onC_pw (c : Nat) (f : Clu → Clu) : (s.onC c f).pw = s.pw := rfl
@[simp] theorem State.onC_saf (c : Nat) (f : Clu → Clu) : (s.onC c f).saf = s.saf := rfl
@[simp] theorem State.onC_dev (c : Nat) (f : Clu → Clu) : (s.onC c f).dev = s.dev := rfl
@[simp] theorem State.onC_lou (c : Nat) (f : Clu → Clu) : (s.onC c f).lou = s.lou := rfl
@[simp] theorem State.onC_pads (c : Nat) (f : Clu → Clu) : (s.onC c f).pads = s.pads := rfl
@[simp] theorem State.onC_rot (c : Nat) (f : Clu → Clu) : (s.onC c f).rot = s.rot := rfl
@[simp] theorem State.onC_rclear (c : Nat) (f : Clu → Clu) : (s.onC c f).rclear = s.rclear := rfl
@[simp] theorem State.onC_irqs (c : Nat) (f : Clu → Clu) : (s.onC c f).irqs = s.irqs := rfl
@[simp] theorem State.onC_rdata (c : Nat) (f : Clu → Clu) : (s.onC c f).rdata = s.rdata := rfl
@[simp] theorem State.onC_rresp (c : Nat) (f : Clu → Clu) : (s.onC c f).rresp = s.rresp := rfl
@[simp] theorem State.onC_draws (c : Nat) (f : Clu → Clu) : (s.onC c f).draws = s.draws := rfl

/-! ### setL -/

@[simp] theorem State.setL_pending (j : Nat) (x : Link) : (s.setL j x).pending = s.pending := rfl
@[simp] theorem State.setL_mem (j : Nat) (x : Link) : (s.setL j x).mem = s.mem := rfl
@[simp] theorem State.setL_synd (j : Nat) (x : Link) : (s.setL j x).synd = s.synd := rfl
@[simp] theorem State.setL_regs (j : Nat) (x : Link) : (s.setL j x).regs = s.regs := rfl
@[simp] theorem State.setL_cnt (j : Nat) (x : Link) : (s.setL j x).cnt = s.cnt := rfl
@[simp] theorem State.setL_shadow (j : Nat) (x : Link) : (s.setL j x).shadow = s.shadow := rfl
@[simp] theorem State.setL_units (j : Nat) (x : Link) : (s.setL j x).units = s.units := rfl
@[simp] theorem State.setL_reels (j : Nat) (x : Link) : (s.setL j x).reels = s.reels := rfl
@[simp] theorem State.setL_clus (j : Nat) (x : Link) : (s.setL j x).clus = s.clus := rfl
@[simp] theorem State.setL_arb (j : Nat) (x : Link) : (s.setL j x).arb = s.arb := rfl
@[simp] theorem State.setL_pgs (j : Nat) (x : Link) : (s.setL j x).pgs = s.pgs := rfl
@[simp] theorem State.setL_fp (j : Nat) (x : Link) : (s.setL j x).fp = s.fp := rfl
@[simp] theorem State.setL_tbl (j : Nat) (x : Link) : (s.setL j x).tbl = s.tbl := rfl
@[simp] theorem State.setL_tim (j : Nat) (x : Link) : (s.setL j x).tim = s.tim := rfl
@[simp] theorem State.setL_hreqs (j : Nat) (x : Link) : (s.setL j x).hreqs = s.hreqs := rfl
@[simp] theorem State.setL_hrq (j : Nat) (x : Link) : (s.setL j x).hrq = s.hrq := rfl
@[simp] theorem State.setL_pw (j : Nat) (x : Link) : (s.setL j x).pw = s.pw := rfl
@[simp] theorem State.setL_saf (j : Nat) (x : Link) : (s.setL j x).saf = s.saf := rfl
@[simp] theorem State.setL_dev (j : Nat) (x : Link) : (s.setL j x).dev = s.dev := rfl
@[simp] theorem State.setL_lou (j : Nat) (x : Link) : (s.setL j x).lou = s.lou := rfl
@[simp] theorem State.setL_pads (j : Nat) (x : Link) : (s.setL j x).pads = s.pads := rfl
@[simp] theorem State.setL_rot (j : Nat) (x : Link) : (s.setL j x).rot = s.rot := rfl
@[simp] theorem State.setL_rclear (j : Nat) (x : Link) : (s.setL j x).rclear = s.rclear := rfl
@[simp] theorem State.setL_irqs (j : Nat) (x : Link) : (s.setL j x).irqs = s.irqs := rfl
@[simp] theorem State.setL_rdata (j : Nat) (x : Link) : (s.setL j x).rdata = s.rdata := rfl
@[simp] theorem State.setL_rresp (j : Nat) (x : Link) : (s.setL j x).rresp = s.rresp := rfl
@[simp] theorem State.setL_draws (j : Nat) (x : Link) : (s.setL j x).draws = s.draws := rfl

/-! ### setDom -/

@[simp] theorem State.setDom_pending (d v : Nat) : (s.setDom d v).pending = s.pending := rfl
@[simp] theorem State.setDom_mem (d v : Nat) : (s.setDom d v).mem = s.mem := rfl
@[simp] theorem State.setDom_synd (d v : Nat) : (s.setDom d v).synd = s.synd := rfl
@[simp] theorem State.setDom_regs (d v : Nat) : (s.setDom d v).regs = s.regs := rfl
@[simp] theorem State.setDom_cnt (d v : Nat) : (s.setDom d v).cnt = s.cnt := rfl
@[simp] theorem State.setDom_shadow (d v : Nat) : (s.setDom d v).shadow = s.shadow := rfl
@[simp] theorem State.setDom_units (d v : Nat) : (s.setDom d v).units = s.units := rfl
@[simp] theorem State.setDom_reels (d v : Nat) : (s.setDom d v).reels = s.reels := rfl
@[simp] theorem State.setDom_clus (d v : Nat) : (s.setDom d v).clus = s.clus := rfl
@[simp] theorem State.setDom_arb (d v : Nat) : (s.setDom d v).arb = s.arb := rfl
@[simp] theorem State.setDom_pgs (d v : Nat) : (s.setDom d v).pgs = s.pgs := rfl
@[simp] theorem State.setDom_fp (d v : Nat) : (s.setDom d v).fp = s.fp := rfl
@[simp] theorem State.setDom_tbl (d v : Nat) : (s.setDom d v).tbl = s.tbl := rfl
@[simp] theorem State.setDom_tim (d v : Nat) : (s.setDom d v).tim = s.tim := rfl
@[simp] theorem State.setDom_hreqs (d v : Nat) : (s.setDom d v).hreqs = s.hreqs := rfl
@[simp] theorem State.setDom_hrq (d v : Nat) : (s.setDom d v).hrq = s.hrq := rfl
@[simp] theorem State.setDom_links (d v : Nat) : (s.setDom d v).links = s.links := rfl
@[simp] theorem State.setDom_saf (d v : Nat) : (s.setDom d v).saf = s.saf := rfl
@[simp] theorem State.setDom_dev (d v : Nat) : (s.setDom d v).dev = s.dev := rfl
@[simp] theorem State.setDom_lou (d v : Nat) : (s.setDom d v).lou = s.lou := rfl
@[simp] theorem State.setDom_pads (d v : Nat) : (s.setDom d v).pads = s.pads := rfl
@[simp] theorem State.setDom_rot (d v : Nat) : (s.setDom d v).rot = s.rot := rfl
@[simp] theorem State.setDom_rclear (d v : Nat) : (s.setDom d v).rclear = s.rclear := rfl
@[simp] theorem State.setDom_irqs (d v : Nat) : (s.setDom d v).irqs = s.irqs := rfl
@[simp] theorem State.setDom_rdata (d v : Nat) : (s.setDom d v).rdata = s.rdata := rfl
@[simp] theorem State.setDom_rresp (d v : Nat) : (s.setDom d v).rresp = s.rresp := rfl
@[simp] theorem State.setDom_draws (d v : Nat) : (s.setDom d v).draws = s.draws := rfl

/-! ### setReg -/

@[simp] theorem State.setReg_pending (p off : Nat) (v : Word) : (s.setReg p off v).pending = s.pending := rfl
@[simp] theorem State.setReg_mem (p off : Nat) (v : Word) : (s.setReg p off v).mem = s.mem := rfl
@[simp] theorem State.setReg_synd (p off : Nat) (v : Word) : (s.setReg p off v).synd = s.synd := rfl
@[simp] theorem State.setReg_cnt (p off : Nat) (v : Word) : (s.setReg p off v).cnt = s.cnt := rfl
@[simp] theorem State.setReg_shadow (p off : Nat) (v : Word) : (s.setReg p off v).shadow = s.shadow := rfl
@[simp] theorem State.setReg_units (p off : Nat) (v : Word) : (s.setReg p off v).units = s.units := rfl
@[simp] theorem State.setReg_reels (p off : Nat) (v : Word) : (s.setReg p off v).reels = s.reels := rfl
@[simp] theorem State.setReg_clus (p off : Nat) (v : Word) : (s.setReg p off v).clus = s.clus := rfl
@[simp] theorem State.setReg_arb (p off : Nat) (v : Word) : (s.setReg p off v).arb = s.arb := rfl
@[simp] theorem State.setReg_pgs (p off : Nat) (v : Word) : (s.setReg p off v).pgs = s.pgs := rfl
@[simp] theorem State.setReg_fp (p off : Nat) (v : Word) : (s.setReg p off v).fp = s.fp := rfl
@[simp] theorem State.setReg_tbl (p off : Nat) (v : Word) : (s.setReg p off v).tbl = s.tbl := rfl
@[simp] theorem State.setReg_tim (p off : Nat) (v : Word) : (s.setReg p off v).tim = s.tim := rfl
@[simp] theorem State.setReg_hreqs (p off : Nat) (v : Word) : (s.setReg p off v).hreqs = s.hreqs := rfl
@[simp] theorem State.setReg_hrq (p off : Nat) (v : Word) : (s.setReg p off v).hrq = s.hrq := rfl
@[simp] theorem State.setReg_links (p off : Nat) (v : Word) : (s.setReg p off v).links = s.links := rfl
@[simp] theorem State.setReg_pw (p off : Nat) (v : Word) : (s.setReg p off v).pw = s.pw := rfl
@[simp] theorem State.setReg_saf (p off : Nat) (v : Word) : (s.setReg p off v).saf = s.saf := rfl
@[simp] theorem State.setReg_dev (p off : Nat) (v : Word) : (s.setReg p off v).dev = s.dev := rfl
@[simp] theorem State.setReg_lou (p off : Nat) (v : Word) : (s.setReg p off v).lou = s.lou := rfl
@[simp] theorem State.setReg_pads (p off : Nat) (v : Word) : (s.setReg p off v).pads = s.pads := rfl
@[simp] theorem State.setReg_rot (p off : Nat) (v : Word) : (s.setReg p off v).rot = s.rot := rfl
@[simp] theorem State.setReg_rclear (p off : Nat) (v : Word) : (s.setReg p off v).rclear = s.rclear := rfl
@[simp] theorem State.setReg_irqs (p off : Nat) (v : Word) : (s.setReg p off v).irqs = s.irqs := rfl
@[simp] theorem State.setReg_rdata (p off : Nat) (v : Word) : (s.setReg p off v).rdata = s.rdata := rfl
@[simp] theorem State.setReg_rresp (p off : Nat) (v : Word) : (s.setReg p off v).rresp = s.rresp := rfl
@[simp] theorem State.setReg_draws (p off : Nat) (v : Word) : (s.setReg p off v).draws = s.draws := rfl

/-! ### setFld -/

@[simp] theorem State.setFld_pending (p off lo len v : Nat) : (s.setFld p off lo len v).pending = s.pending := rfl
@[simp] theorem State.setFld_mem (p off lo len v : Nat) : (s.setFld p off lo len v).mem = s.mem := rfl
@[simp] theorem State.setFld_synd (p off lo len v : Nat) : (s.setFld p off lo len v).synd = s.synd := rfl
@[simp] theorem State.setFld_cnt (p off lo len v : Nat) : (s.setFld p off lo len v).cnt = s.cnt := rfl
@[simp] theorem State.setFld_shadow (p off lo len v : Nat) : (s.setFld p off lo len v).shadow = s.shadow := rfl
@[simp] theorem State.setFld_units (p off lo len v : Nat) : (s.setFld p off lo len v).units = s.units := rfl
@[simp] theorem State.setFld_reels (p off lo len v : Nat) : (s.setFld p off lo len v).reels = s.reels := rfl
@[simp] theorem State.setFld_clus (p off lo len v : Nat) : (s.setFld p off lo len v).clus = s.clus := rfl
@[simp] theorem State.setFld_arb (p off lo len v : Nat) : (s.setFld p off lo len v).arb = s.arb := rfl
@[simp] theorem State.setFld_pgs (p off lo len v : Nat) : (s.setFld p off lo len v).pgs = s.pgs := rfl
@[simp] theorem State.setFld_fp (p off lo len v : Nat) : (s.setFld p off lo len v).fp = s.fp := rfl
@[simp] theorem State.setFld_tbl (p off lo len v : Nat) : (s.setFld p off lo len v).tbl = s.tbl := rfl
@[simp] theorem State.setFld_tim (p off lo len v : Nat) : (s.setFld p off lo len v).tim = s.tim := rfl
@[simp] theorem State.setFld_hreqs (p off lo len v : Nat) : (s.setFld p off lo len v).hreqs = s.hreqs := rfl
@[simp] theorem State.setFld_hrq (p off lo len v : Nat) : (s.setFld p off lo len v).hrq = s.hrq := rfl
@[simp] theorem State.setFld_links (p off lo len v : Nat) : (s.setFld p off lo len v).links = s.links := rfl
@[simp] theorem State.setFld_pw (p off lo len v : Nat) : (s.setFld p off lo len v).pw = s.pw := rfl
@[simp] theorem State.setFld_saf (p off lo len v : Nat) : (s.setFld p off lo len v).saf = s.saf := rfl
@[simp] theorem State.setFld_dev (p off lo len v : Nat) : (s.setFld p off lo len v).dev = s.dev := rfl
@[simp] theorem State.setFld_lou (p off lo len v : Nat) : (s.setFld p off lo len v).lou = s.lou := rfl
@[simp] theorem State.setFld_pads (p off lo len v : Nat) : (s.setFld p off lo len v).pads = s.pads := rfl
@[simp] theorem State.setFld_rot (p off lo len v : Nat) : (s.setFld p off lo len v).rot = s.rot := rfl
@[simp] theorem State.setFld_rclear (p off lo len v : Nat) : (s.setFld p off lo len v).rclear = s.rclear := rfl
@[simp] theorem State.setFld_irqs (p off lo len v : Nat) : (s.setFld p off lo len v).irqs = s.irqs := rfl
@[simp] theorem State.setFld_rdata (p off lo len v : Nat) : (s.setFld p off lo len v).rdata = s.rdata := rfl
@[simp] theorem State.setFld_rresp (p off lo len v : Nat) : (s.setFld p off lo len v).rresp = s.rresp := rfl
@[simp] theorem State.setFld_draws (p off lo len v : Nat) : (s.setFld p off lo len v).draws = s.draws := rfl

/-! ### setBit -/

@[simp] theorem State.setBit_pending (p off i : Nat) (b : Bool) : (s.setBit p off i b).pending = s.pending := rfl
@[simp] theorem State.setBit_mem (p off i : Nat) (b : Bool) : (s.setBit p off i b).mem = s.mem := rfl
@[simp] theorem State.setBit_synd (p off i : Nat) (b : Bool) : (s.setBit p off i b).synd = s.synd := rfl
@[simp] theorem State.setBit_cnt (p off i : Nat) (b : Bool) : (s.setBit p off i b).cnt = s.cnt := rfl
@[simp] theorem State.setBit_shadow (p off i : Nat) (b : Bool) : (s.setBit p off i b).shadow = s.shadow := rfl
@[simp] theorem State.setBit_units (p off i : Nat) (b : Bool) : (s.setBit p off i b).units = s.units := rfl
@[simp] theorem State.setBit_reels (p off i : Nat) (b : Bool) : (s.setBit p off i b).reels = s.reels := rfl
@[simp] theorem State.setBit_clus (p off i : Nat) (b : Bool) : (s.setBit p off i b).clus = s.clus := rfl
@[simp] theorem State.setBit_arb (p off i : Nat) (b : Bool) : (s.setBit p off i b).arb = s.arb := rfl
@[simp] theorem State.setBit_pgs (p off i : Nat) (b : Bool) : (s.setBit p off i b).pgs = s.pgs := rfl
@[simp] theorem State.setBit_fp (p off i : Nat) (b : Bool) : (s.setBit p off i b).fp = s.fp := rfl
@[simp] theorem State.setBit_tbl (p off i : Nat) (b : Bool) : (s.setBit p off i b).tbl = s.tbl := rfl
@[simp] theorem State.setBit_tim (p off i : Nat) (b : Bool) : (s.setBit p off i b).tim = s.tim := rfl
@[simp] theorem State.setBit_hreqs (p off i : Nat) (b : Bool) : (s.setBit p off i b).hreqs = s.hreqs := rfl
@[simp] theorem State.setBit_hrq (p off i : Nat) (b : Bool) : (s.setBit p off i b).hrq = s.hrq := rfl
@[simp] theorem State.setBit_links (p off i : Nat) (b : Bool) : (s.setBit p off i b).links = s.links := rfl
@[simp] theorem State.setBit_pw (p off i : Nat) (b : Bool) : (s.setBit p off i b).pw = s.pw := rfl
@[simp] theorem State.setBit_saf (p off i : Nat) (b : Bool) : (s.setBit p off i b).saf = s.saf := rfl
@[simp] theorem State.setBit_dev (p off i : Nat) (b : Bool) : (s.setBit p off i b).dev = s.dev := rfl
@[simp] theorem State.setBit_lou (p off i : Nat) (b : Bool) : (s.setBit p off i b).lou = s.lou := rfl
@[simp] theorem State.setBit_pads (p off i : Nat) (b : Bool) : (s.setBit p off i b).pads = s.pads := rfl
@[simp] theorem State.setBit_rot (p off i : Nat) (b : Bool) : (s.setBit p off i b).rot = s.rot := rfl
@[simp] theorem State.setBit_rclear (p off i : Nat) (b : Bool) : (s.setBit p off i b).rclear = s.rclear := rfl
@[simp] theorem State.setBit_irqs (p off i : Nat) (b : Bool) : (s.setBit p off i b).irqs = s.irqs := rfl
@[simp] theorem State.setBit_rdata (p off i : Nat) (b : Bool) : (s.setBit p off i b).rdata = s.rdata := rfl
@[simp] theorem State.setBit_rresp (p off i : Nat) (b : Bool) : (s.setBit p off i b).rresp = s.rresp := rfl
@[simp] theorem State.setBit_draws (p off i : Nat) (b : Bool) : (s.setBit p off i b).draws = s.draws := rfl

/-! ### flag -/

@[simp] theorem State.flag_pending (p i : Nat) : (s.flag p i).pending = s.pending := rfl
@[simp] theorem State.flag_mem (p i : Nat) : (s.flag p i).mem = s.mem := rfl
@[simp] theorem State.flag_synd (p i : Nat) : (s.flag p i).synd = s.synd := rfl
@[simp] theorem State.flag_cnt (p i : Nat) : (s.flag p i).cnt = s.cnt := rfl
@[simp] theorem State.flag_shadow (p i : Nat) : (s.flag p i).shadow = s.shadow := rfl
@[simp] theorem State.flag_units (p i : Nat) : (s.flag p i).units = s.units := rfl
@[simp] theorem State.flag_reels (p i : Nat) : (s.flag p i).reels = s.reels := rfl
@[simp] theorem State.flag_clus (p i : Nat) : (s.flag p i).clus = s.clus := rfl
@[simp] theorem State.flag_arb (p i : Nat) : (s.flag p i).arb = s.arb := rfl
@[simp] theorem State.flag_pgs (p i : Nat) : (s.flag p i).pgs = s.pgs := rfl
@[simp] theorem State.flag_fp (p i : Nat) : (s.flag p i).fp = s.fp := rfl
@[simp] theorem State.flag_tbl (p i : Nat) : (s.flag p i).tbl = s.tbl := rfl
@[simp] theorem State.flag_tim (p i : Nat) : (s.flag p i).tim = s.tim := rfl
@[simp] theorem State.flag_hreqs (p i : Nat) : (s.flag p i).hreqs = s.hreqs := rfl
@[simp] theorem State.flag_hrq (p i : Nat) : (s.flag p i).hrq = s.hrq := rfl
@[simp] theorem State.flag_links (p i : Nat) : (s.flag p i).links = s.links := rfl
@[simp] theorem State.flag_pw (p i : Nat) : (s.flag p i).pw = s.pw := rfl
@[simp] theorem State.flag_saf (p i : Nat) : (s.flag p i).saf = s.saf := rfl
@[simp] theorem State.flag_dev (p i : Nat) : (s.flag p i).dev = s.dev := rfl
@[simp] theorem State.flag_lou (p i : Nat) : (s.flag p i).lou = s.lou := rfl
@[simp] theorem State.flag_pads (p i : Nat) : (s.flag p i).pads = s.pads := rfl
@[simp] theorem State.flag_rot (p i : Nat) : (s.flag p i).rot = s.rot := rfl
@[simp] theorem State.flag_rclear (p i : Nat) : (s.flag p i).rclear = s.rclear := rfl
@[simp] theorem State.flag_irqs (p i : Nat) : (s.flag p i).irqs = s.irqs := rfl
@[simp] theorem State.flag_rdata (p i : Nat) : (s.flag p i).rdata = s.rdata := rfl
@[simp] theorem State.flag_rresp (p i : Nat) : (s.flag p i).rresp = s.rresp := rfl
@[simp] theorem State.flag_draws (p i : Nat) : (s.flag p i).draws = s.draws := rfl

/-! ### addSat -/

@[simp] theorem State.addSat_pending (p off lo len n : Nat) : (s.addSat p off lo len n).pending = s.pending := rfl
@[simp] theorem State.addSat_mem (p off lo len n : Nat) : (s.addSat p off lo len n).mem = s.mem := rfl
@[simp] theorem State.addSat_synd (p off lo len n : Nat) : (s.addSat p off lo len n).synd = s.synd := rfl
@[simp] theorem State.addSat_cnt (p off lo len n : Nat) : (s.addSat p off lo len n).cnt = s.cnt := rfl
@[simp] theorem State.addSat_shadow (p off lo len n : Nat) : (s.addSat p off lo len n).shadow = s.shadow := rfl
@[simp] theorem State.addSat_units (p off lo len n : Nat) : (s.addSat p off lo len n).units = s.units := rfl
@[simp] theorem State.addSat_reels (p off lo len n : Nat) : (s.addSat p off lo len n).reels = s.reels := rfl
@[simp] theorem State.addSat_clus (p off lo len n : Nat) : (s.addSat p off lo len n).clus = s.clus := rfl
@[simp] theorem State.addSat_arb (p off lo len n : Nat) : (s.addSat p off lo len n).arb = s.arb := rfl
@[simp] theorem State.addSat_pgs (p off lo len n : Nat) : (s.addSat p off lo len n).pgs = s.pgs := rfl
@[simp] theorem State.addSat_fp (p off lo len n : Nat) : (s.addSat p off lo len n).fp = s.fp := rfl
@[simp] theorem State.addSat_tbl (p off lo len n : Nat) : (s.addSat p off lo len n).tbl = s.tbl := rfl
@[simp] theorem State.addSat_tim (p off lo len n : Nat) : (s.addSat p off lo len n).tim = s.tim := rfl
@[simp] theorem State.addSat_hreqs (p off lo len n : Nat) : (s.addSat p off lo len n).hreqs = s.hreqs := rfl
@[simp] theorem State.addSat_hrq (p off lo len n : Nat) : (s.addSat p off lo len n).hrq = s.hrq := rfl
@[simp] theorem State.addSat_links (p off lo len n : Nat) : (s.addSat p off lo len n).links = s.links := rfl
@[simp] theorem State.addSat_pw (p off lo len n : Nat) : (s.addSat p off lo len n).pw = s.pw := rfl
@[simp] theorem State.addSat_saf (p off lo len n : Nat) : (s.addSat p off lo len n).saf = s.saf := rfl
@[simp] theorem State.addSat_dev (p off lo len n : Nat) : (s.addSat p off lo len n).dev = s.dev := rfl
@[simp] theorem State.addSat_lou (p off lo len n : Nat) : (s.addSat p off lo len n).lou = s.lou := rfl
@[simp] theorem State.addSat_pads (p off lo len n : Nat) : (s.addSat p off lo len n).pads = s.pads := rfl
@[simp] theorem State.addSat_rot (p off lo len n : Nat) : (s.addSat p off lo len n).rot = s.rot := rfl
@[simp] theorem State.addSat_rclear (p off lo len n : Nat) : (s.addSat p off lo len n).rclear = s.rclear := rfl
@[simp] theorem State.addSat_irqs (p off lo len n : Nat) : (s.addSat p off lo len n).irqs = s.irqs := rfl
@[simp] theorem State.addSat_rdata (p off lo len n : Nat) : (s.addSat p off lo len n).rdata = s.rdata := rfl
@[simp] theorem State.addSat_rresp (p off lo len n : Nat) : (s.addSat p off lo len n).rresp = s.rresp := rfl
@[simp] theorem State.addSat_draws (p off lo len n : Nat) : (s.addSat p off lo len n).draws = s.draws := rfl

/-! ### addCnt -/

@[simp] theorem State.addCnt_pending (k n : Nat) : (s.addCnt k n).pending = s.pending := rfl
@[simp] theorem State.addCnt_mem (k n : Nat) : (s.addCnt k n).mem = s.mem := rfl
@[simp] theorem State.addCnt_synd (k n : Nat) : (s.addCnt k n).synd = s.synd := rfl
@[simp] theorem State.addCnt_regs (k n : Nat) : (s.addCnt k n).regs = s.regs := rfl
@[simp] theorem State.addCnt_shadow (k n : Nat) : (s.addCnt k n).shadow = s.shadow := rfl
@[simp] theorem State.addCnt_units (k n : Nat) : (s.addCnt k n).units = s.units := rfl
@[simp] theorem State.addCnt_reels (k n : Nat) : (s.addCnt k n).reels = s.reels := rfl
@[simp] theorem State.addCnt_clus (k n : Nat) : (s.addCnt k n).clus = s.clus := rfl
@[simp] theorem State.addCnt_arb (k n : Nat) : (s.addCnt k n).arb = s.arb := rfl
@[simp] theorem State.addCnt_pgs (k n : Nat) : (s.addCnt k n).pgs = s.pgs := rfl
@[simp] theorem State.addCnt_fp (k n : Nat) : (s.addCnt k n).fp = s.fp := rfl
@[simp] theorem State.addCnt_tbl (k n : Nat) : (s.addCnt k n).tbl = s.tbl := rfl
@[simp] theorem State.addCnt_tim (k n : Nat) : (s.addCnt k n).tim = s.tim := rfl
@[simp] theorem State.addCnt_hreqs (k n : Nat) : (s.addCnt k n).hreqs = s.hreqs := rfl
@[simp] theorem State.addCnt_hrq (k n : Nat) : (s.addCnt k n).hrq = s.hrq := rfl
@[simp] theorem State.addCnt_links (k n : Nat) : (s.addCnt k n).links = s.links := rfl
@[simp] theorem State.addCnt_pw (k n : Nat) : (s.addCnt k n).pw = s.pw := rfl
@[simp] theorem State.addCnt_saf (k n : Nat) : (s.addCnt k n).saf = s.saf := rfl
@[simp] theorem State.addCnt_dev (k n : Nat) : (s.addCnt k n).dev = s.dev := rfl
@[simp] theorem State.addCnt_lou (k n : Nat) : (s.addCnt k n).lou = s.lou := rfl
@[simp] theorem State.addCnt_pads (k n : Nat) : (s.addCnt k n).pads = s.pads := rfl
@[simp] theorem State.addCnt_rot (k n : Nat) : (s.addCnt k n).rot = s.rot := rfl
@[simp] theorem State.addCnt_rclear (k n : Nat) : (s.addCnt k n).rclear = s.rclear := rfl
@[simp] theorem State.addCnt_irqs (k n : Nat) : (s.addCnt k n).irqs = s.irqs := rfl
@[simp] theorem State.addCnt_rdata (k n : Nat) : (s.addCnt k n).rdata = s.rdata := rfl
@[simp] theorem State.addCnt_rresp (k n : Nat) : (s.addCnt k n).rresp = s.rresp := rfl
@[simp] theorem State.addCnt_draws (k n : Nat) : (s.addCnt k n).draws = s.draws := rfl

/-! ### setByte -/

@[simp] theorem State.setByte_pending (k : Nat) (b : Byte) : (s.setByte k b).pending = s.pending := rfl
@[simp] theorem State.setByte_synd (k : Nat) (b : Byte) : (s.setByte k b).synd = s.synd := rfl
@[simp] theorem State.setByte_regs (k : Nat) (b : Byte) : (s.setByte k b).regs = s.regs := rfl
@[simp] theorem State.setByte_cnt (k : Nat) (b : Byte) : (s.setByte k b).cnt = s.cnt := rfl
@[simp] theorem State.setByte_shadow (k : Nat) (b : Byte) : (s.setByte k b).shadow = s.shadow := rfl
@[simp] theorem State.setByte_units (k : Nat) (b : Byte) : (s.setByte k b).units = s.units := rfl
@[simp] theorem State.setByte_reels (k : Nat) (b : Byte) : (s.setByte k b).reels = s.reels := rfl
@[simp] theorem State.setByte_clus (k : Nat) (b : Byte) : (s.setByte k b).clus = s.clus := rfl
@[simp] theorem State.setByte_arb (k : Nat) (b : Byte) : (s.setByte k b).arb = s.arb := rfl
@[simp] theorem State.setByte_pgs (k : Nat) (b : Byte) : (s.setByte k b).pgs = s.pgs := rfl
@[simp] theorem State.setByte_fp (k : Nat) (b : Byte) : (s.setByte k b).fp = s.fp := rfl
@[simp] theorem State.setByte_tbl (k : Nat) (b : Byte) : (s.setByte k b).tbl = s.tbl := rfl
@[simp] theorem State.setByte_tim (k : Nat) (b : Byte) : (s.setByte k b).tim = s.tim := rfl
@[simp] theorem State.setByte_hreqs (k : Nat) (b : Byte) : (s.setByte k b).hreqs = s.hreqs := rfl
@[simp] theorem State.setByte_hrq (k : Nat) (b : Byte) : (s.setByte k b).hrq = s.hrq := rfl
@[simp] theorem State.setByte_links (k : Nat) (b : Byte) : (s.setByte k b).links = s.links := rfl
@[simp] theorem State.setByte_pw (k : Nat) (b : Byte) : (s.setByte k b).pw = s.pw := rfl
@[simp] theorem State.setByte_saf (k : Nat) (b : Byte) : (s.setByte k b).saf = s.saf := rfl
@[simp] theorem State.setByte_dev (k : Nat) (b : Byte) : (s.setByte k b).dev = s.dev := rfl
@[simp] theorem State.setByte_lou (k : Nat) (b : Byte) : (s.setByte k b).lou = s.lou := rfl
@[simp] theorem State.setByte_pads (k : Nat) (b : Byte) : (s.setByte k b).pads = s.pads := rfl
@[simp] theorem State.setByte_rot (k : Nat) (b : Byte) : (s.setByte k b).rot = s.rot := rfl
@[simp] theorem State.setByte_rclear (k : Nat) (b : Byte) : (s.setByte k b).rclear = s.rclear := rfl
@[simp] theorem State.setByte_irqs (k : Nat) (b : Byte) : (s.setByte k b).irqs = s.irqs := rfl
@[simp] theorem State.setByte_rdata (k : Nat) (b : Byte) : (s.setByte k b).rdata = s.rdata := rfl
@[simp] theorem State.setByte_rresp (k : Nat) (b : Byte) : (s.setByte k b).rresp = s.rresp := rfl
@[simp] theorem State.setByte_draws (k : Nat) (b : Byte) : (s.setByte k b).draws = s.draws := rfl

/-! ### setSyn -/

@[simp] theorem State.setSyn_pending (k : Nat) (b : Byte) : (s.setSyn k b).pending = s.pending := rfl
@[simp] theorem State.setSyn_mem (k : Nat) (b : Byte) : (s.setSyn k b).mem = s.mem := rfl
@[simp] theorem State.setSyn_regs (k : Nat) (b : Byte) : (s.setSyn k b).regs = s.regs := rfl
@[simp] theorem State.setSyn_cnt (k : Nat) (b : Byte) : (s.setSyn k b).cnt = s.cnt := rfl
@[simp] theorem State.setSyn_shadow (k : Nat) (b : Byte) : (s.setSyn k b).shadow = s.shadow := rfl
@[simp] theorem State.setSyn_units (k : Nat) (b : Byte) : (s.setSyn k b).units = s.units := rfl
@[simp] theorem State.setSyn_reels (k : Nat) (b : Byte) : (s.setSyn k b).reels = s.reels := rfl
@[simp] theorem State.setSyn_clus (k : Nat) (b : Byte) : (s.setSyn k b).clus = s.clus := rfl
@[simp] theorem State.setSyn_arb (k : Nat) (b : Byte) : (s.setSyn k b).arb = s.arb := rfl
@[simp] theorem State.setSyn_pgs (k : Nat) (b : Byte) : (s.setSyn k b).pgs = s.pgs := rfl
@[simp] theorem State.setSyn_fp (k : Nat) (b : Byte) : (s.setSyn k b).fp = s.fp := rfl
@[simp] theorem State.setSyn_tbl (k : Nat) (b : Byte) : (s.setSyn k b).tbl = s.tbl := rfl
@[simp] theorem State.setSyn_tim (k : Nat) (b : Byte) : (s.setSyn k b).tim = s.tim := rfl
@[simp] theorem State.setSyn_hreqs (k : Nat) (b : Byte) : (s.setSyn k b).hreqs = s.hreqs := rfl
@[simp] theorem State.setSyn_hrq (k : Nat) (b : Byte) : (s.setSyn k b).hrq = s.hrq := rfl
@[simp] theorem State.setSyn_links (k : Nat) (b : Byte) : (s.setSyn k b).links = s.links := rfl
@[simp] theorem State.setSyn_pw (k : Nat) (b : Byte) : (s.setSyn k b).pw = s.pw := rfl
@[simp] theorem State.setSyn_saf (k : Nat) (b : Byte) : (s.setSyn k b).saf = s.saf := rfl
@[simp] theorem State.setSyn_dev (k : Nat) (b : Byte) : (s.setSyn k b).dev = s.dev := rfl
@[simp] theorem State.setSyn_lou (k : Nat) (b : Byte) : (s.setSyn k b).lou = s.lou := rfl
@[simp] theorem State.setSyn_pads (k : Nat) (b : Byte) : (s.setSyn k b).pads = s.pads := rfl
@[simp] theorem State.setSyn_rot (k : Nat) (b : Byte) : (s.setSyn k b).rot = s.rot := rfl
@[simp] theorem State.setSyn_rclear (k : Nat) (b : Byte) : (s.setSyn k b).rclear = s.rclear := rfl
@[simp] theorem State.setSyn_irqs (k : Nat) (b : Byte) : (s.setSyn k b).irqs = s.irqs := rfl
@[simp] theorem State.setSyn_rdata (k : Nat) (b : Byte) : (s.setSyn k b).rdata = s.rdata := rfl
@[simp] theorem State.setSyn_rresp (k : Nat) (b : Byte) : (s.setSyn k b).rresp = s.rresp := rfl
@[simp] theorem State.setSyn_draws (k : Nat) (b : Byte) : (s.setSyn k b).draws = s.draws := rfl

/-! ### Reads after updates -/

@[simp] theorem State.u_setU (p q : Nat) (x : UnitSt) : (s.setU p x).u q = if q = p then x else s.u q :=
  Tab.get_set _ _ _ _ _
@[simp] theorem State.u_onU (p q : Nat) (f : UnitSt → UnitSt) :
    (s.onU p f).u q = if q = p then f (s.u p) else s.u q := Tab.get_set _ _ _ _ _
@[simp] theorem State.r_setR (p q : Nat) (x : ReelSt) : (s.setR p x).r q = if q = p then x else s.r q :=
  Tab.get_set _ _ _ _ _
@[simp] theorem State.r_onR (p q : Nat) (f : ReelSt → ReelSt) :
    (s.onR p f).r q = if q = p then f (s.r p) else s.r q := Tab.get_set _ _ _ _ _
@[simp] theorem State.c_setC (p q : Nat) (x : Clu) : (s.setC p x).c q = if q = p then x else s.c q :=
  Tab.get_set _ _ _ _ _
@[simp] theorem State.c_onC (p q : Nat) (f : Clu → Clu) : (s.onC p f).c q = if q = p then f (s.c p) else s.c q :=
  Tab.get_set _ _ _ _ _
@[simp] theorem State.l_setL (p q : Nat) (x : Link) : (s.setL p x).l q = if q = p then x else s.l q :=
  Tab.get_set _ _ _ _ _
@[simp] theorem State.dom_setDom (d e v : Nat) : (s.setDom d v).dom e = if e = d then v else s.dom e := by
  unfold State.dom State.setDom
  by_cases h : e = d
  · subst h; simp
  · simp [h, Tab.get_set_ne _ _ _ _ h]
@[simp] theorem State.chan_setChan (r k q j : Nat) (x : Chan) :
    (s.setChan r k x).chan q j = if q = r ∧ j = k then x else s.chan q j := by
  unfold State.chan State.setChan
  by_cases h : q = r
  · subst h; simp
  · simp [h]
@[simp] theorem State.chan_onCh (r k q j : Nat) (f : Chan → Chan) :
    (s.onCh r k f).chan q j = if q = r ∧ j = k then f (s.chan r k) else s.chan q j := State.chan_setChan ..

/-- A register read after a write: the same register, or another key. -/
theorem State.reg_setReg (p off q o : Nat) (v : Word) :
    (s.setReg p off v).reg q o = if rkey q o = rkey p off then v else s.reg q o := by
  unfold State.reg State.setReg
  by_cases h : rkey q o = rkey p off
  · simp [h]
  · simp [h, Tab.get_set_ne _ _ _ _ h]
@[simp] theorem State.reg_setReg_same (p off : Nat) (v : Word) : (s.setReg p off v).reg p off = v := by
  simp [State.reg_setReg]
@[simp] theorem State.count_addCnt (k n j : Nat) :
    (s.addCnt k n).count j = if j = k then (s.count k + n) % 2 ^ 48 else s.count j := by
  unfold State.count State.addCnt
  by_cases h : j = k
  · subst h; simp [State.count]
  · simp [h]
@[simp] theorem State.byte_setByte (k j : Nat) (b : Byte) :
    (s.setByte k b).byte j = if j = k then b else s.byte j := Tab.get_set _ _ _ _ _
@[simp] theorem State.syn_setSyn (k j : Nat) (b : Byte) :
    (s.setSyn k b).syn j = if j / 8 = k / 8 then b else s.syn j := Tab.get_set _ _ _ _ _
@[simp] theorem UnitSt.gr_setG (x : UnitSt) (i j : Nat) (v : Word) :
    (x.setG i v).gr j = if j = i then v else x.gr j := Tab.get_set _ _ _ _ _

@[simp] theorem State.u_setC (q : Nat) (c : Nat) (x : Clu) : (s.setC c x).u q = s.u q := rfl
@[simp] theorem State.u_onC (q : Nat) (c : Nat) (f : Clu → Clu) : (s.onC c f).u q = s.u q := rfl
@[simp] theorem State.u_setDom (q : Nat) (d v : Nat) : (s.setDom d v).u q = s.u q := rfl
@[simp] theorem State.u_setReg (q : Nat) (p off : Nat) (v : Word) : (s.setReg p off v).u q = s.u q := rfl
@[simp] theorem State.u_setFld (q : Nat) (p off lo len v : Nat) : (s.setFld p off lo len v).u q = s.u q := rfl
@[simp] theorem State.u_setBit (q : Nat) (p off i : Nat) (b : Bool) : (s.setBit p off i b).u q = s.u q := rfl
@[simp] theorem State.u_flag (q : Nat) (p i : Nat) : (s.flag p i).u q = s.u q := rfl
@[simp] theorem State.u_addSat (q : Nat) (p off lo len n : Nat) : (s.addSat p off lo len n).u q = s.u q := rfl
@[simp] theorem State.u_addCnt (q : Nat) (k n : Nat) : (s.addCnt k n).u q = s.u q := rfl
@[simp] theorem State.u_setByte (q : Nat) (k : Nat) (b : Byte) : (s.setByte k b).u q = s.u q := rfl
@[simp] theorem State.u_setSyn (q : Nat) (k : Nat) (b : Byte) : (s.setSyn k b).u q = s.u q := rfl
@[simp] theorem State.r_setU (q : Nat) (p : Nat) (x : UnitSt) : (s.setU p x).r q = s.r q := rfl
@[simp] theorem State.r_onU (q : Nat) (p : Nat) (f : UnitSt → UnitSt) : (s.onU p f).r q = s.r q := rfl
@[simp] theorem State.r_setC (q : Nat) (c : Nat) (x : Clu) : (s.setC c x).r q = s.r q := rfl
@[simp] theorem State.r_onC (q : Nat) (c : Nat) (f : Clu → Clu) : (s.onC c f).r q = s.r q := rfl
@[simp] theorem State.r_setDom (q : Nat) (d v : Nat) : (s.setDom d v).r q = s.r q := rfl
@[simp] theorem State.r_setReg (q : Nat) (p off : Nat) (v : Word) : (s.setReg p off v).r q = s.r q := rfl
@[simp] theorem State.r_setFld (q : Nat) (p off lo len v : Nat) : (s.setFld p off lo len v).r q = s.r q := rfl
@[simp] theorem State.r_setBit (q : Nat) (p off i : Nat) (b : Bool) : (s.setBit p off i b).r q = s.r q := rfl
@[simp] theorem State.r_flag (q : Nat) (p i : Nat) : (s.flag p i).r q = s.r q := rfl
@[simp] theorem State.r_addSat (q : Nat) (p off lo len n : Nat) : (s.addSat p off lo len n).r q = s.r q := rfl
@[simp] theorem State.r_addCnt (q : Nat) (k n : Nat) : (s.addCnt k n).r q = s.r q := rfl
@[simp] theorem State.r_setByte (q : Nat) (k : Nat) (b : Byte) : (s.setByte k b).r q = s.r q := rfl
@[simp] theorem State.r_setSyn (q : Nat) (k : Nat) (b : Byte) : (s.setSyn k b).r q = s.r q := rfl
@[simp] theorem State.c_setU (q : Nat) (p : Nat) (x : UnitSt) : (s.setU p x).c q = s.c q := rfl
@[simp] theorem State.c_onU (q : Nat) (p : Nat) (f : UnitSt → UnitSt) : (s.onU p f).c q = s.c q := rfl
@[simp] theorem State.c_setDom (q : Nat) (d v : Nat) : (s.setDom d v).c q = s.c q := rfl
@[simp] theorem State.c_setReg (q : Nat) (p off : Nat) (v : Word) : (s.setReg p off v).c q = s.c q := rfl
@[simp] theorem State.c_setFld (q : Nat) (p off lo len v : Nat) : (s.setFld p off lo len v).c q = s.c q := rfl
@[simp] theorem State.c_setBit (q : Nat) (p off i : Nat) (b : Bool) : (s.setBit p off i b).c q = s.c q := rfl
@[simp] theorem State.c_flag (q : Nat) (p i : Nat) : (s.flag p i).c q = s.c q := rfl
@[simp] theorem State.c_addSat (q : Nat) (p off lo len n : Nat) : (s.addSat p off lo len n).c q = s.c q := rfl
@[simp] theorem State.c_addCnt (q : Nat) (k n : Nat) : (s.addCnt k n).c q = s.c q := rfl
@[simp] theorem State.c_setByte (q : Nat) (k : Nat) (b : Byte) : (s.setByte k b).c q = s.c q := rfl
@[simp] theorem State.c_setSyn (q : Nat) (k : Nat) (b : Byte) : (s.setSyn k b).c q = s.c q := rfl
@[simp] theorem State.l_setU (q : Nat) (p : Nat) (x : UnitSt) : (s.setU p x).l q = s.l q := rfl
@[simp] theorem State.l_onU (q : Nat) (p : Nat) (f : UnitSt → UnitSt) : (s.onU p f).l q = s.l q := rfl
@[simp] theorem State.l_setC (q : Nat) (c : Nat) (x : Clu) : (s.setC c x).l q = s.l q := rfl
@[simp] theorem State.l_onC (q : Nat) (c : Nat) (f : Clu → Clu) : (s.onC c f).l q = s.l q := rfl
@[simp] theorem State.l_setDom (q : Nat) (d v : Nat) : (s.setDom d v).l q = s.l q := rfl
@[simp] theorem State.l_setReg (q : Nat) (p off : Nat) (v : Word) : (s.setReg p off v).l q = s.l q := rfl
@[simp] theorem State.l_setFld (q : Nat) (p off lo len v : Nat) : (s.setFld p off lo len v).l q = s.l q := rfl
@[simp] theorem State.l_setBit (q : Nat) (p off i : Nat) (b : Bool) : (s.setBit p off i b).l q = s.l q := rfl
@[simp] theorem State.l_flag (q : Nat) (p i : Nat) : (s.flag p i).l q = s.l q := rfl
@[simp] theorem State.l_addSat (q : Nat) (p off lo len n : Nat) : (s.addSat p off lo len n).l q = s.l q := rfl
@[simp] theorem State.l_addCnt (q : Nat) (k n : Nat) : (s.addCnt k n).l q = s.l q := rfl
@[simp] theorem State.l_setByte (q : Nat) (k : Nat) (b : Byte) : (s.setByte k b).l q = s.l q := rfl
@[simp] theorem State.l_setSyn (q : Nat) (k : Nat) (b : Byte) : (s.setSyn k b).l q = s.l q := rfl
@[simp] theorem State.reg_setU (q o : Nat) (p : Nat) (x : UnitSt) : (s.setU p x).reg q o = s.reg q o := rfl
@[simp] theorem State.byte_setU (a : Nat) (p : Nat) (x : UnitSt) : (s.setU p x).byte a = s.byte a := rfl
@[simp] theorem State.syn_setU (a : Nat) (p : Nat) (x : UnitSt) : (s.setU p x).syn a = s.syn a := rfl
@[simp] theorem State.reg_onU (q o : Nat) (p : Nat) (f : UnitSt → UnitSt) : (s.onU p f).reg q o = s.reg q o := rfl
@[simp] theorem State.byte_onU (a : Nat) (p : Nat) (f : UnitSt → UnitSt) : (s.onU p f).byte a = s.byte a := rfl
@[simp] theorem State.syn_onU (a : Nat) (p : Nat) (f : UnitSt → UnitSt) : (s.onU p f).syn a = s.syn a := rfl
@[simp] theorem State.reg_setR (q o : Nat) (r : Nat) (x : ReelSt) : (s.setR r x).reg q o = s.reg q o := rfl
@[simp] theorem State.byte_setR (a : Nat) (r : Nat) (x : ReelSt) : (s.setR r x).byte a = s.byte a := rfl
@[simp] theorem State.syn_setR (a : Nat) (r : Nat) (x : ReelSt) : (s.setR r x).syn a = s.syn a := rfl
@[simp] theorem State.reg_onR (q o : Nat) (r : Nat) (f : ReelSt → ReelSt) : (s.onR r f).reg q o = s.reg q o := rfl
@[simp] theorem State.byte_onR (a : Nat) (r : Nat) (f : ReelSt → ReelSt) : (s.onR r f).byte a = s.byte a := rfl
@[simp] theorem State.syn_onR (a : Nat) (r : Nat) (f : ReelSt → ReelSt) : (s.onR r f).syn a = s.syn a := rfl
@[simp] theorem State.reg_setChan (q o : Nat) (r k : Nat) (x : Chan) : (s.setChan r k x).reg q o = s.reg q o := rfl
@[simp] theorem State.byte_setChan (a : Nat) (r k : Nat) (x : Chan) : (s.setChan r k x).byte a = s.byte a := rfl
@[simp] theorem State.syn_setChan (a : Nat) (r k : Nat) (x : Chan) : (s.setChan r k x).syn a = s.syn a := rfl
@[simp] theorem State.reg_onCh (q o : Nat) (r k : Nat) (f : Chan → Chan) : (s.onCh r k f).reg q o = s.reg q o := rfl
@[simp] theorem State.byte_onCh (a : Nat) (r k : Nat) (f : Chan → Chan) : (s.onCh r k f).byte a = s.byte a := rfl
@[simp] theorem State.syn_onCh (a : Nat) (r k : Nat) (f : Chan → Chan) : (s.onCh r k f).syn a = s.syn a := rfl
@[simp] theorem State.reg_setC (q o : Nat) (c : Nat) (x : Clu) : (s.setC c x).reg q o = s.reg q o := rfl
@[simp] theorem State.byte_setC (a : Nat) (c : Nat) (x : Clu) : (s.setC c x).byte a = s.byte a := rfl
@[simp] theorem State.syn_setC (a : Nat) (c : Nat) (x : Clu) : (s.setC c x).syn a = s.syn a := rfl
@[simp] theorem State.reg_onC (q o : Nat) (c : Nat) (f : Clu → Clu) : (s.onC c f).reg q o = s.reg q o := rfl
@[simp] theorem State.byte_onC (a : Nat) (c : Nat) (f : Clu → Clu) : (s.onC c f).byte a = s.byte a := rfl
@[simp] theorem State.syn_onC (a : Nat) (c : Nat) (f : Clu → Clu) : (s.onC c f).syn a = s.syn a := rfl
@[simp] theorem State.reg_setL (q o : Nat) (j : Nat) (x : Link) : (s.setL j x).reg q o = s.reg q o := rfl
@[simp] theorem State.byte_setL (a : Nat) (j : Nat) (x : Link) : (s.setL j x).byte a = s.byte a := rfl
@[simp] theorem State.syn_setL (a : Nat) (j : Nat) (x : Link) : (s.setL j x).syn a = s.syn a := rfl
@[simp] theorem State.reg_setDom (q o : Nat) (d v : Nat) : (s.setDom d v).reg q o = s.reg q o := rfl
@[simp] theorem State.byte_setDom (a : Nat) (d v : Nat) : (s.setDom d v).byte a = s.byte a := rfl
@[simp] theorem State.syn_setDom (a : Nat) (d v : Nat) : (s.setDom d v).syn a = s.syn a := rfl
@[simp] theorem State.byte_setReg (a : Nat) (p off : Nat) (v : Word) : (s.setReg p off v).byte a = s.byte a := rfl
@[simp] theorem State.syn_setReg (a : Nat) (p off : Nat) (v : Word) : (s.setReg p off v).syn a = s.syn a := rfl
@[simp] theorem State.byte_setFld (a : Nat) (p off lo len v : Nat) : (s.setFld p off lo len v).byte a = s.byte a := rfl
@[simp] theorem State.syn_setFld (a : Nat) (p off lo len v : Nat) : (s.setFld p off lo len v).syn a = s.syn a := rfl
@[simp] theorem State.byte_setBit (a : Nat) (p off i : Nat) (b : Bool) : (s.setBit p off i b).byte a = s.byte a := rfl
@[simp] theorem State.syn_setBit (a : Nat) (p off i : Nat) (b : Bool) : (s.setBit p off i b).syn a = s.syn a := rfl
@[simp] theorem State.byte_flag (a : Nat) (p i : Nat) : (s.flag p i).byte a = s.byte a := rfl
@[simp] theorem State.syn_flag (a : Nat) (p i : Nat) : (s.flag p i).syn a = s.syn a := rfl
@[simp] theorem State.byte_addSat (a : Nat) (p off lo len n : Nat) : (s.addSat p off lo len n).byte a = s.byte a := rfl
@[simp] theorem State.syn_addSat (a : Nat) (p off lo len n : Nat) : (s.addSat p off lo len n).syn a = s.syn a := rfl
@[simp] theorem State.reg_addCnt (q o : Nat) (k n : Nat) : (s.addCnt k n).reg q o = s.reg q o := rfl
@[simp] theorem State.byte_addCnt (a : Nat) (k n : Nat) : (s.addCnt k n).byte a = s.byte a := rfl
@[simp] theorem State.syn_addCnt (a : Nat) (k n : Nat) : (s.addCnt k n).syn a = s.syn a := rfl
@[simp] theorem State.reg_setByte (q o : Nat) (k : Nat) (b : Byte) : (s.setByte k b).reg q o = s.reg q o := rfl
@[simp] theorem State.syn_setByte (a : Nat) (k : Nat) (b : Byte) : (s.setByte k b).syn a = s.syn a := rfl
@[simp] theorem State.reg_setSyn (q o : Nat) (k : Nat) (b : Byte) : (s.setSyn k b).reg q o = s.reg q o := rfl
@[simp] theorem State.byte_setSyn (a : Nat) (k : Nat) (b : Byte) : (s.setSyn k b).byte a = s.byte a := rfl

/-! ### The canonical form of memory -/

theorem Memory.wf_setByte (k : Nat) (b : Byte) (h : Memory.wf s = true) : Memory.wf (s.setByte k b) = true := by
  simp only [Memory.wf, Bool.and_eq_true] at h ⊢
  exact ⟨Tab.wf_set _ _ _ _ h.1, h.2⟩
theorem Memory.wf_setSyn (k : Nat) (b : Byte) (h : Memory.wf s = true) : Memory.wf (s.setSyn k b) = true := by
  simp only [Memory.wf, Bool.and_eq_true] at h ⊢
  exact ⟨h.1, Tab.wf_set _ _ _ _ h.2⟩
theorem Memory.wf_setLE (n : Nat) (k v : Nat) (s : State) (h : Memory.wf s = true) :
    Memory.wf (s.setLE k v n) = true := by
  induction n generalizing s k v with
  | zero => exact h
  | succ n ih => exact ih _ _ _ (Memory.wf_setByte s k _ h)
theorem Memory.wf_setWord8 (k : Nat) (d : DWord) (h : Memory.wf s = true) : Memory.wf (s.setWord8 k d) = true :=
  Memory.wf_setSyn _ _ _ (Memory.wf_setLE 8 _ _ s h)
theorem Memory.wf_setBytes (l : List Byte) (k : Nat) (s : State) (h : Memory.wf s = true) :
    Memory.wf (s.setBytes k l) = true := by
  induction l generalizing s k with
  | nil => exact h
  | cons b t ih => exact ih _ _ (Memory.wf_setSyn _ _ _ (Memory.wf_setByte s k b h))
theorem Memory.wf_countEcc (k : Nat) (e : Ecc) (h : Memory.wf s = true) : Memory.wf (s.countEcc k e) = true := by
  unfold State.countEcc
  cases e with
  | ok => exact h
  | corr => dsimp only; split <;> exact h
  | unc => dsimp only; split <;> exact h
theorem Memory.wf_memMerge (k n v : Nat) (h : Memory.wf s = true) : Memory.wf (s.memMerge k n v).2 = true := by
  unfold State.memMerge
  dsimp only
  split
  · exact Memory.wf_countEcc _ _ _ h
  · exact Memory.wf_setWord8 _ _ _ (Memory.wf_countEcc _ _ _ h)
theorem Memory.wf_memRead (k n : Nat) (h : Memory.wf s = true) : Memory.wf (s.memRead k n).2.2 = true :=
  Memory.wf_countEcc _ _ _ h
theorem Memory.wf_reset : Memory.wf State.reset = true := rfl

end Sys2Proof.Machine
end

