-- ==== Sys2Proof/Laws/Unit.lean ====
section
/-! SUPPORT. What the shared operations of the units do: issue, sequential completion, causes. -/

namespace Sys2Proof.Machine

open Sys2Proof.Claims

variable (s : State) (p : Nat)

@[simp] theorem each_nil {σ ι : Type} (f : ι → σ → σ) (x : σ) : each [] f x = x := rfl
@[simp] theorem each_cons {σ ι : Type} (i : ι) (l : List ι) (f : ι → σ → σ) (x : σ) :
    each (i :: l) f x = each l f (f i x) := rfl

/-- An instruction whose fetch ends well, with no watchpoint, no reserved field and an allowed mode, is executed. -/
theorem State.issue_runs {t : State} {e : Enc} {bad : Bool} {modes : Nat → Bool} {body : State → State}
    (hr : s.ready p = true) (hf : s.fetch p e = .ok t) (hw : t.fetchWatch p = none) (hb : bad = false)
    (hm : modes (t.u p).mode = true) : s.issue p e bad modes body = body t := by
  simp [State.issue, State.fetched, State.checked, hr, hf, hw, hb, hm]

/-- A unit that is not ready executes nothing. -/
theorem State.issue_not_ready {e : Enc} {bad : Bool} {modes : Nat → Bool} {body : State → State}
    (hr : s.ready p = false) : s.issue p e bad modes body = s := by
  simp [State.issue, hr]

/-- A reserved field that is not 0 raises ILLOP RSVD (R76). -/
theorem State.issue_reserved {t : State} {e : Enc} {modes : Nat → Bool} {body : State → State}
    (hr : s.ready p = true) (hf : s.fetch p e = .ok t) (hw : t.fetchWatch p = none) :
    s.issue p e true modes body = t.illop p e 1 := by
  simp [State.issue, State.fetched, State.checked, hr, hf, hw]

/-- A mode that may not execute the instruction raises PRIV (R52, R76). -/
theorem State.issue_mode {t : State} {e : Enc} {modes : Nat → Bool} {body : State → State}
    (hr : s.ready p = true) (hf : s.fetch p e = .ok t) (hw : t.fetchWatch p = none)
    (hm : modes (t.u p).mode = false) : s.issue p e false modes body = t.cause p e 0x03 := by
  simp [State.issue, State.fetched, State.checked, hr, hf, hw, hm]

/-- The units after the end of a single step: STEP written 0, DEBUG REQUEST pending (R377). -/
theorem State.stepEnd_u (q : Nat) :
    (s.stepEnd p).u q =
      if q = p ∧ (s.u p).dbg.stepping = true then
        { s.u p with dbg := { (s.u p).dbg with stepping := false, req := true, byLoupe := false } }
      else s.u q := by
  unfold State.stepEnd
  by_cases h : (s.u p).dbg.stepping = true
  · by_cases g : q = p
    · subst g; simp [h, UnitSt.setD]
    · simp [h, g]
  · simp [h]

/-- The end of a single step changes units and registers alone. -/
theorem State.stepEnd_frame : s.stepEnd p = { s with units := (s.stepEnd p).units, regs := (s.stepEnd p).regs } := by
  unfold State.stepEnd
  split <;> rfl

/-- With EE = 1 a synchronous cause is an exception entry (R134). -/
theorem State.raise_enter (code sub : Nat) (epc info bad : Word) (he : (s.u p).ee = true)
    (hc : code ≠ 0x10) : s.raise p code sub epc info bad = s.enter p code sub epc info bad := by
  simp [State.raise, he, hc]

/-- The end of a single step changes nothing of the unit but its debug state. -/
theorem State.stepEnd_self : ∃ d, (s.stepEnd p).u p = { s.u p with dbg := d } := by
  rw [State.stepEnd_u]
  split
  · exact ⟨_, rfl⟩
  · exact ⟨(s.u p).dbg, rfl⟩

/-- It changes no other unit. -/
theorem State.stepEnd_other {q : Nat} (h : q ≠ p) : (s.stepEnd p).u q = s.u q := by
  rw [State.stepEnd_u]; simp [h]

/-- It changes no register but DBGCTL. -/
theorem State.stepEnd_reg (k : Nat) (h : k ≠ rkey (pgUnit p) 0x540) :
    Tab.get (regDef k) (s.stepEnd p).regs k = Tab.get (regDef k) s.regs k := by
  unfold State.stepEnd
  split
  · simp only [State.setBit, State.setFld, State.setReg]
    rw [Tab.get_set_ne _ _ _ _ h]
    simp
  · rfl

/-- The loop-end step and the program counter of a sequential completion (R82, R100). -/
theorem UnitSt.advance_eq (x : UnitSt) (n : Nat) (hs : x.stat = .run) :
    ∃ hq wrap, x.advance n true =
      { x with pc := seqPc x n, spr := { x.spr with lc := seqLc x }, first := false, hq := hq, hwOld := [],
               wrap := wrap } := by
  have key : x.spr.lc - 1 ≠ 0 ↔ x.spr.lc ≠ 1 := by
    constructor <;> intro h h' <;> apply h <;> bv_omega
  refine ⟨(x.advance n true).hq, (x.advance n true).wrap, ?_⟩
  obtain ⟨g, pc, ⟨bnk, dsp, rsp, rs, spilled, mh, ml, lc, ls, le, estat, cause, info, epc, badaddr, ebase⟩⟩ := x
  simp only at key hs
  subst hs
  unfold UnitSt.advance seqPc seqLc
  by_cases h1 : pc = le <;> by_cases h2 : lc = 0 <;> by_cases h3 : lc - 1 = 0 <;> by_cases h4 : lc = 1 <;>
    simp_all

/-- Sequential completion of an instruction that changed general registers and special registers other than LC,
LS and LE. -/
theorem State.seq_spec (f : UnitSt → UnitSt) (n : Nat) (hs : (s.u p).stat = .run)
    (hf : f (s.u p) = { s.u p with g := (f (s.u p)).g, spr := (f (s.u p)).spr })
    (hl : (f (s.u p)).spr.lc = (s.u p).spr.lc ∧ (f (s.u p)).spr.ls = (s.u p).spr.ls ∧
      (f (s.u p)).spr.le = (s.u p).spr.le) :
    OnlyUnit s ((s.onU p f).seq p n) p ∧ SameRest (s.u p) (((s.onU p f).seq p n).u p) ∧
      (((s.onU p f).seq p n).u p).g = (f (s.u p)).g ∧
      (((s.onU p f).seq p n).u p).pc = seqPc (s.u p) n ∧
      (((s.onU p f).seq p n).u p).spr = { (f (s.u p)).spr with lc := seqLc (s.u p) } := by
  have hx : ∀ q, ((s.onU p f).onU p fun x => x.advance n true).u q =
      if q = p then (f (s.u p)).advance n true else s.u q := by
    intro q; by_cases h : q = p <;> simp [State.onU, h]
  have hrun : (f (s.u p)).stat = .run := by rw [hf]; exact hs
  obtain ⟨hq, wrap, ha⟩ := UnitSt.advance_eq (f (s.u p)) n hrun
  obtain ⟨d, hd⟩ := State.stepEnd_self ((s.onU p f).onU p fun x => x.advance n true) p
  have e1 : seqPc (f (s.u p)) n = seqPc (s.u p) n := by
    unfold seqPc; rw [hl.1, hl.2.1, hl.2.2, hf]
  have e2 : seqLc (f (s.u p)) = seqLc (s.u p) := by
    unfold seqLc; rw [hl.1, hl.2.2, hf]
  rw [hx p, if_pos rfl, ha, e1, e2] at hd
  unfold State.seq
  refine ⟨⟨?_, ?_, ?_⟩, ?_, ?_, ?_, ?_⟩
  · rw [State.stepEnd_frame]; rfl
  · intro q hq; rw [State.stepEnd_other _ _ hq, hx, if_neg hq]
  · intro k hk; rw [State.stepEnd_reg _ _ _ hk]; rfl
  · unfold SameRest; rw [hd, hf]
  · rw [hd]
  · rw [hd]
  · rw [hd]

end Sys2Proof.Machine
end

