-- ==== Sys2Proof/Laws/Except.lean ====
section
/-! SUPPORT. What exception entry does, and the laws of clearing memory. -/

namespace Sys2Proof.Machine

open Sys2Proof.Claims

variable (s : State)

/-! ### Exception entry (R135, R137) -/

theorem entryEstat_bit (e : Word) (code i : Nat) (h : i < 13) : bit (entryEstat e code) i = bit e i := by
  unfold entryEstat
  simp only
  rw [bit_ins _ _ _ _ _ (by omega), if_neg (by omega), bit_insBit _ _ _ _ (by omega), if_neg (by omega),
    bit_ins _ _ _ _ _ (by omega), if_neg (by omega), bit_insBit _ _ _ _ (by omega), if_neg (by omega)]

theorem entryEstat_pee (e : Word) (code : Nat) : bit (entryEstat e code) 17 = bit e 13 := by
  unfold entryEstat
  simp only
  rw [bit_ins _ _ _ _ _ (by omega), if_neg (by omega), bit_insBit _ _ _ _ (by omega), if_neg (by omega),
    bit_ins _ _ _ _ _ (by omega), if_neg (by omega), bit_insBit _ _ _ _ (by omega), if_pos rfl]

theorem entryEstat_ee (e : Word) (code : Nat) : bit (entryEstat e code) 13 = false := by
  unfold entryEstat
  simp only
  rw [bit_ins _ _ _ _ _ (by omega), if_neg (by omega), bit_insBit _ _ _ _ (by omega), if_pos rfl]

theorem fld_lt {n : Nat} (w : BitVec n) (lo len : Nat) : fld w lo len < 2 ^ len := Nat.mod_lt _ (Nat.pow_pos (by decide))

theorem entryEstat_pmode (e : Word) (code : Nat) : fld (entryEstat e code) 18 2 = fld e 14 2 := by
  unfold entryEstat insBit
  simp only
  rw [fld_ins_disjoint _ _ _ _ _ _ (by omega) (by omega), fld_ins_disjoint _ _ _ _ _ _ (by omega) (by omega),
    fld_ins_same _ _ _ _ (by omega), Nat.mod_eq_of_lt (fld_lt e 14 2)]

theorem entryEstat_mode (e : Word) (code : Nat) :
    fld (entryEstat e code) 14 2 = if code = 0x11 ∨ fld e 14 2 = 3 then 3 else 1 := by
  unfold entryEstat
  simp only
  rw [fld_ins_same _ _ _ _ (by omega)]
  split <;> rfl

/-- A dropped request of microcode changes no unit. -/
@[simp] theorem State.dropMicro_u (p q : Nat) : (s.dropMicro p).u q = s.u q := by
  unfold State.dropMicro
  simp only
  split <;> rfl

theorem UnitSt.flushProds_eq (x : UnitSt) :
    ∃ mh ml, x.flushProds = { x with prods := [], spr := { x.spr with mh := mh, ml := ml } } := by
  unfold UnitSt.flushProds
  split
  · next h => exact ⟨x.spr.mh, x.spr.ml, by rw [List.getLast?_eq_none_iff] at h; rw [← h]⟩
  · exact ⟨_, _, rfl⟩

/-- Exception entry writes the saved registers, the status and the program counter, and keeps the general registers. -/
theorem State.enter_spec (p : UnitIx) (code sub : Nat) (epc info bad : Word) :
    Entered s (s.enter p code sub epc info bad) p code sub epc info bad := by
  obtain ⟨d, hd⟩ := State.stepEnd_self (s.dropMicro p) p
  rw [State.dropMicro_u] at hd
  obtain ⟨mh, ml, hf⟩ := UnitSt.flushProds_eq { s.u p with dbg := d }
  have hu : (s.enter p code sub epc info bad).u p =
      { s.u p with
        prods := [],
        spr := { (s.u p).spr with mh := mh, ml := ml, estat := entryEstat (s.u p).spr.estat code,
                                  cause := w32 (sub * 256 + code), info := info, epc := epc &&& ~~~1,
                                  badaddr := bad },
        pc := (s.u p).spr.ebase, hq := [], hwOld := [], micro := none, stat := .run, first := true, wrap := false,
        dbg := ((s.enter p code sub epc info bad).u p).dbg } := by
    unfold State.enter
    rw [State.u_onU, if_pos rfl, hd]
    simp only [hf]
  unfold Entered
  simp only
  rw [hu]
  refine ⟨rfl, rfl, rfl, rfl, rfl, entryEstat_ee _ _, entryEstat_pmode _ _, entryEstat_pee _ _, entryEstat_mode _ _,
    fun i hi => entryEstat_bit _ _ _ hi, fun i => rfl, rfl, rfl, rfl⟩

/-- It changes no other unit. -/
theorem State.enter_other (p q code sub : Nat) (epc info bad : Word) (h : q ≠ p) :
    (s.enter p code sub epc info bad).u q = s.u q := by
  unfold State.enter
  rw [State.u_onU, if_neg h, State.stepEnd_other _ _ h, State.dropMicro_u]

/-! ### Clearing (R289) -/

/-- Cleared bytes read 0, every other byte as before. -/
theorem State.byte_zero (k n i : Nat) : (s.zero k n).byte i = if k ≤ i ∧ i < k + n then 0 else s.byte i := by
  show Tab.get 0 (Tab.drop _ s.mem) i = _
  rw [Tab.get_drop]
  simp [State.byte]

/-- Clearing keeps the canonical form of memory. -/
theorem Memory.wf_zero (k n : Nat) (h : Memory.wf s = true) : Memory.wf (s.zero k n) = true := by
  unfold Memory.wf at h ⊢
  simp only [Bool.and_eq_true] at h ⊢
  exact ⟨Tab.wf_drop _ _ _ h.1, Tab.wf_drop _ _ _ h.2⟩

end Sys2Proof.Machine
end

