-- ==== Sys2Proof/Laws/Memory.lean ====
section
/-! SUPPORT. Memory as little-endian numbers, and reads and stores of storage words whose check bits are good. -/

namespace Sys2Proof.Machine

variable (s : State)

/-- A byte after a little-endian store. -/
theorem State.byte_setLE (k v n i : Nat) :
    (s.setLE k v n).byte i =
      if k ≤ i ∧ i < k + n then BitVec.ofNat 8 (v / 256 ^ (i - k)) else s.byte i := by
  induction n generalizing s k v with
  | zero => simp [State.setLE]; try omega
  | succ n ih =>
    simp only [State.setLE, ih, State.byte_setByte]
    by_cases h : k + 1 ≤ i ∧ i < k + 1 + n
    · rw [if_pos h, if_pos (by omega)]
      rw [Nat.div_div_eq_div_mul, show i - k = (i - (k + 1)) + 1 by omega, Nat.pow_succ, Nat.mul_comm]
    · rw [if_neg h]
      by_cases h2 : i = k
      · subst h2; simp
      · rw [if_neg h2, if_neg (by omega)]

/-- A store of bytes leaves every syndrome. -/
theorem State.syn_setLE (k v n i : Nat) : (s.setLE k v n).syn i = s.syn i := by
  induction n generalizing s k v with
  | zero => rfl
  | succ n ih => simp only [State.setLE, ih]; rfl

/-- A little-endian number is bounded by its size. -/
theorem State.leN_lt (k n : Nat) : s.leN k n < 256 ^ n := by
  induction n generalizing k with
  | zero => simp [State.leN]
  | succ n ih =>
    have := ih (k + 1); have := (s.byte k).isLt
    simp only [State.leN, Nat.pow_succ]; omega

/-- A little-endian number cut in two. -/
theorem State.leN_add (k m n : Nat) : s.leN k (m + n) = s.leN k m + 256 ^ m * s.leN (k + m) n := by
  induction m generalizing k with
  | zero => simp [State.leN]
  | succ m ih =>
    rw [show m + 1 + n = (m + n) + 1 by omega]
    simp only [State.leN, ih, Nat.pow_succ, show k + 1 + m = k + (m + 1) by omega]
    ring

/-- Equal bytes make equal numbers. -/
theorem State.leN_congr {s t : State} (k n : Nat) (h : ∀ i, k ≤ i → i < k + n → t.byte i = s.byte i) :
    t.leN k n = s.leN k n := by
  induction n generalizing k with
  | zero => rfl
  | succ n ih =>
    simp only [State.leN]
    rw [h k (by omega) (by omega), ih (k + 1) fun i a b => h i (by omega) (by omega)]

/-- What was stored is read back. -/
theorem State.leN_setLE (k v n : Nat) : (s.setLE k v n).leN k n = v % 256 ^ n := by
  induction n generalizing s k v with
  | zero => simp [State.leN, Nat.mod_one]
  | succ n ih =>
    simp only [State.setLE, State.leN, ih]
    rw [State.byte_setLE, if_neg (by omega), State.byte_setByte, if_pos rfl]
    simp [Nat.pow_succ, Nat.mul_comm (256 ^ n), Nat.mod_mul]

/-- The middle of a little-endian number. -/
theorem State.leN_slice (k m n l : Nat) : s.leN k (m + n + l) / 256 ^ m % 256 ^ n = s.leN (k + m) n := by
  rw [Nat.add_assoc, State.leN_add, State.leN_add, Nat.add_mul_div_left _ _ (by positivity), Nat.div_eq_of_lt (State.leN_lt ..)]
  simp [Nat.mod_eq_of_lt (State.leN_lt ..)]

/-- A storage word with good check bits reads as its bytes. -/
theorem State.word8_clean (k : Nat) (h : s.syn k = 0) : (s.word8 k).toNat = s.leN (k / 8 * 8) 8 := by
  unfold State.word8 fixWord
  rw [h]; simp
  have := State.leN_lt s (k / 8 * 8) 8; norm_num at this ⊢; exact this

/-- Bits of `m` bytes. -/
theorem pow256 (m : Nat) : 2 ^ (8 * m) = 256 ^ m := by rw [Nat.pow_mul]

/-- A read of good memory gives its bytes and changes nothing (R228). -/
theorem State.memRead_clean (k n : Nat) (h : s.syn k = 0) (hn : k % 8 + n ≤ 8) :
    s.memRead k n = (.ok, s.leN k n, s) := by
  unfold State.memRead
  have h8 : 8 = k % 8 + n + (8 - k % 8 - n) := by omega
  have := s.leN_slice (k / 8 * 8) (k % 8) n (8 - k % 8 - n)
  rw [← h8, show k / 8 * 8 + k % 8 = k by omega] at this
  rw [s.word8_clean k h, pow256, pow256, this, h]
  rfl

/-- Equal numbers have equal bytes. -/
theorem State.byte_of_leN {s t : State} (k n : Nat) (h : t.leN k n = s.leN k n) (i : Nat) (hi : k ≤ i) (hj : i < k + n) :
    t.byte i = s.byte i := by
  induction n generalizing k with
  | zero => omega
  | succ n ih =>
    simp only [State.leN] at h
    have a := (s.byte k).isLt
    have b := (t.byte k).isLt
    by_cases e : i = k
    · subst e; apply BitVec.eq_of_toNat_eq; omega
    · exact ih (k + 1) (by omega) (by omega) (by omega)

/-- A number splits into three digits in one way. -/
theorem split_unique {b c x y z x' y' z' : Nat} (hx : x < b) (hx' : x' < b) (hy : y < c) (hy' : y' < c)
    (h : x + b * (y + c * z) = x' + b * (y' + c * z')) : x = x' ∧ y = y' ∧ z = z' := by
  have h1 : x = x' := by
    have := congrArg (· % b) h
    simpa [Nat.mod_eq_of_lt hx, Nat.mod_eq_of_lt hx'] using this
  subst h1
  have h2 : y + c * z = y' + c * z' := Nat.eq_of_mul_eq_mul_left (by omega) (Nat.add_left_cancel h)
  have h3 : y = y' := by
    have := congrArg (· % c) h2
    simpa [Nat.mod_eq_of_lt hy, Nat.mod_eq_of_lt hy'] using this
  subst h3
  exact ⟨rfl, rfl, Nat.eq_of_mul_eq_mul_left (by omega) (Nat.add_left_cancel h2)⟩

/-- A store into good memory writes its bytes and nothing else, and every check bit stands (R94). -/
theorem State.memMerge_clean (k n v : Nat) (h : s.syn k = 0) (hn : k % 8 + n ≤ 8) :
    ∃ t, s.memMerge k n v = (.ok, t) ∧ t = { s with mem := t.mem, synd := t.synd } ∧ t.leN k n = v % 256 ^ n ∧
      (∀ i, i < k ∨ k + n ≤ i → t.byte i = s.byte i) ∧ ∀ i, t.syn i = s.syn i := by
  obtain ⟨m, l, hk, h8, hb⟩ : ∃ m l, k / 8 * 8 + m = k ∧ m + n + l = 8 ∧ k % 8 = m :=
    ⟨k % 8, 8 - k % 8 - n, by omega, by omega, rfl⟩
  set base := k / 8 * 8 with hbase
  have hD : (s.word8 k).toNat = s.leN base 8 := s.word8_clean k h
  set D := s.leN base 8 with hDd
  have hs1 : D = s.leN base m + 256 ^ m * (s.leN k n + 256 ^ n * s.leN (k + n) l) := by
    rw [hDd, ← h8, Nat.add_assoc, State.leN_add, State.leN_add, hk]
  have hold : D / 256 ^ m % 256 ^ n = s.leN k n := by
    have := s.leN_slice base m n l
    rw [h8, hk] at this; exact this
  have b1 := s.leN_lt base m
  have b2 := s.leN_lt k n
  have b3 := s.leN_lt (k + n) l
  have hv : v % 256 ^ n < 256 ^ n := Nat.mod_lt _ (by positivity)
  set D' := D - s.leN k n * 256 ^ m + v % 256 ^ n * 256 ^ m with hD'
  have hs2 : D' = s.leN base m + 256 ^ m * (v % 256 ^ n + 256 ^ n * s.leN (k + n) l) := by
    rw [hD', hs1]
    have : s.leN base m + 256 ^ m * (s.leN k n + 256 ^ n * s.leN (k + n) l) - s.leN k n * 256 ^ m =
        s.leN base m + 256 ^ m * (256 ^ n * s.leN (k + n) l) := by
      rw [Nat.mul_add, Nat.mul_comm (s.leN k n)]; omega
    rw [this]; ring
  have hlt : D' < 2 ^ 64 := by
    have p8 : (2 : Nat) ^ 64 = 256 ^ m * (256 ^ n * 256 ^ l) := by
      rw [← Nat.pow_add, ← Nat.pow_add, ← Nat.add_assoc, h8]; norm_num
    rw [hs2, p8]
    have c1 : v % 256 ^ n + 256 ^ n * s.leN (k + n) l < 256 ^ n * 256 ^ l := by
      calc v % 256 ^ n + 256 ^ n * s.leN (k + n) l < 256 ^ n + 256 ^ n * s.leN (k + n) l := by omega
        _ = 256 ^ n * (s.leN (k + n) l + 1) := by ring
        _ ≤ _ := Nat.mul_le_mul_left _ b3
    calc _ < 256 ^ m + 256 ^ m * (v % 256 ^ n + 256 ^ n * s.leN (k + n) l) := by omega
      _ = 256 ^ m * (v % 256 ^ n + 256 ^ n * s.leN (k + n) l + 1) := by ring
      _ ≤ _ := Nat.mul_le_mul_left _ c1
  have hm : s.memMerge k n v = (.ok, (s.setLE base D' 8).setSyn k 0) := by
    unfold State.memMerge
    simp only [h, State.countEcc, State.setWord8, pow256, hD, hb, hold]
    have e1 : synClass 0 = .ok := rfl
    simp only [e1]
    rw [← hbase, BitVec.toNat_ofNat, Nat.mod_eq_of_lt (by rw [← hD']; exact hlt)]
    simp [hD']
  refine ⟨_, hm, ?_, ?_, ?_, ?_⟩
  · have : ∀ (a v c : Nat) (s : State), s.setLE a v c = { s with mem := (s.setLE a v c).mem } := by
      intro a v c
      induction c generalizing a v with
      | zero => intro s; rfl
      | succ c ih => intro s; rw [State.setLE, ih]; rfl
    unfold State.setSyn
    rw [this]
  all_goals
    have f8 : ((s.setLE base D' 8).setSyn k 0).leN base 8 = D' := by
      have e := State.leN_congr (s := s.setLE base D' 8) (t := (s.setLE base D' 8).setSyn k 0) base 8 fun i _ _ => rfl
      rw [e, State.leN_setLE]
      exact Nat.mod_eq_of_lt hlt
    set t := (s.setLE base D' 8).setSyn k 0 with ht
    have f1 : t.leN base m + 256 ^ m * (t.leN k n + 256 ^ n * t.leN (k + n) l) = D' := by
      rw [← f8, ← h8, Nat.add_assoc, State.leN_add, State.leN_add, hk]
    rw [hs2] at f1
    obtain ⟨g1, g2, g3⟩ := split_unique (t.leN_lt base m) b1 (t.leN_lt k n) hv f1
  · exact g2
  · intro i hi
    by_cases c : base ≤ i ∧ i < base + 8
    · rcases hi with hi | hi
      · exact State.byte_of_leN base m g1 i c.1 (by omega)
      · exact State.byte_of_leN (k + n) l g3 i hi (by omega)
    · rw [ht, State.byte_setSyn, State.byte_setLE, if_neg (by omega)]
  · intro i
    rw [ht, State.syn_setSyn]
    split
    · rename_i e; rw [← h]; unfold State.syn; rw [e]
    · exact State.syn_setLE ..
end Sys2Proof.Machine
end

