-- ==== Sys2Proof/Tests/Slice0.lean ====
section
/-! SUPPORT. Tests: words and ill-formed commands of the spec, and for each statement states that meet its hypotheses. -/

namespace Sys2Proof.Tests

set_option Elab.async false

open Sys2Proof Sys2Proof.Machine Sys2Proof.Claims

/-! ### States -/

/-- The block after the Developer has reached step 6: DVSTAT.STATE = 5. -/
def run : State :=
  { State.reset with
    dev := { Dev.reset with due := false }, regs := [(rkey pgDev 0x040, 0x56000000)],
    pw := { State.reset.pw with dom := [], ckack := 0x7F } }

/-- A running unit in S mode with EE = 0. -/
def unit0 : UnitSt := { UnitSt.reset 0 with stat := .run }

/-- The block with unit 0 in state `x`. -/
def at0 (x : UnitSt) : State := { run with units := [(0, x)] }

/-- The unit with the halfwords of `e` at the head of its fetch queue. -/
def withQ (x : UnitSt) (e : Enc) : UnitSt :=
  { x with hq := match e with
      | .c16 h => [⟨x.pc, h, 0⟩]
      | .w32 i => [⟨x.pc, i.extractLsb' 0 16, 0⟩, ⟨x.pc + 2, i.extractLsb' 16 16, 0⟩] }

/-- The block with unit 0 in state `x` about to execute `e`. -/
def atE (x : UnitSt) (e : Enc) : State := at0 (withQ x e)

/-- Unit 0 with ESTAT `e`. -/
def withE (e : Word) : UnitSt := unit0.setS fun r => { r with estat := e }

/-- The ESTAT of S mode with EE = 1, of M mode, of U mode, and of S mode with EE, OVE and RSE. -/
def eeS : Word := 0x46000
def mS : Word := 0x4C000
def uS : Word := 0x40000

/-- A register of a page set. -/
def reg1 (p off : Nat) (v : Word) (s : State) : State := s.setReg p off v

/-- The Reel 0 running, with its channel 0 in state `x`. -/
def reel0 (x : Chan) : State :=
  ({ run with reels := [(0, { ReelSt.reset with held := false, ch := [(0, x)] })] }).setReg (pgReel 0) 0x080 0x80000000

/-- Instruction bits of Reel operation `op` with every field 0 but those of `f`. -/
def f0 : RI := ⟨0, 0, 0, 0, 0, 0⟩

/-! ### Words written out from the encodings of the spec (R65 to R80, R166) -/

theorem test_decode_add16 : decodeUnit 0 (.c16 0b0_0001_0011_0101_001) = .add 0 (.c 3 5) := by decide +kernel
theorem test_decode_add32 :
    decodeUnit 0 (.w32 0b00001_00010_000000_1_000001_00011_0000) = .add 0 (.r ⟨1, 2, 0, 3⟩) := by decide +kernel
theorem test_decode_mul : decodeUnit 0 (.c16 0b0_0010_0001_0010_100) = .mul 0 (.c 1 2) := by decide +kernel
theorem test_decode_lw : decodeUnit 0 (.c16 0b0_0110_0100_0011_111) = .lw 0 (.c 4 3 7) := by decide +kernel
theorem test_decode_b : decodeUnit 0 (.c16 0b0_1010_0001_1111_110) = .bCond 0 (.c 1 0x7E) := by decide +kernel
theorem test_decode_trap : decodeUnit 0 (.c16 0b0_1110_0001_0000_101) = .trap 0 (.c 0 0x85) := by decide +kernel
theorem test_decode_mts : decodeUnit 0 (.c16 0b0_1111_0010_1001_001) = .mts 0 (.c 2 0 9) := by decide +kernel
theorem test_decode_bcopy :
    decodeUnit 0 (.w32 0b00001_00010_000000_1_011010_00011_0000) = .bcopy 0 ⟨1, 2, 0, 3⟩ := by decide +kernel
theorem test_decode_unassigned : decodeUnit 0 (.c16 0b0_0000_0000_0000_000) = .nop 0 (.raw (.c16 0)) := by decide +kernel
theorem test_decode_reel_ldi :
    decodeReel 0 0 0b00001_0_01_010_000_00_1111111111111111 = .ldi 0 0 ⟨0, 1, 2, 0, 0, 0xFFFF⟩ := by decide +kernel
theorem test_decode_reel_op0 : decodeReel 0 0 0 = .reelNop 0 0 0 := by decide +kernel

/-! ### Ill-formed commands, one for each check of WellFormed -/

theorem test_ill_formed :
    ([.nop 0 (.raw (.c16 0b0_0001_0011_0101_001)), .nop 0 (.raw (.c16 0x8000)), .nop 0 (.raw (.w32 0)),
      .reelNop 0 0 0x08000000, .channelStart .host 0 0 0, .channelStop .host 0 0 0x80000000, .crst .host 0 0 0,
      .step .host 0, .slew .host 0, .rsctlChange .host 0 0, .dmaStart .host 0 0 0, .dmaStop .host 0 0 0x80000000,
      .dmaBurst 0 0 [64], .mtctlGo .host 0 0, .marchTestStop .host 0 0, .chunkPass 0 [(16, 2)] false,
      .marchTestEnd 0 [(8, 0, 2)], .uforce .host 0 0, .rforce .host 0 0, .dvcmdUnknown .host 1, .rccmdUnknown .host 2,
      .upcmdUnknown .host 5, .load .host 0, .clear .host 0, .zeroall .host 0, .mac .host 0, .kscmdUnknown .host 4,
      .safeset .host 0, .safeclr .host 0, .rd 2 0 0, .pwctlGo .host 0, .rstctlRefused .host 0xC1EA1000,
      .helloFlit 0 ⟨0, 0, 0, 0, 0, 0, 1⟩, .timeFlit 0 ⟨0, 0, 0, 0, 0, 0, 1⟩ 0, .readFlit 0 ⟨0, 0, 0, 0, 0, 0, 1⟩,
      .writeFlit 0 ⟨0, 0, 0, 0, 0, 0, 1⟩, .amoaddFlit 0 ⟨0, 0, 0, 0, 0, 0, 1⟩, .amoswpFlit 0 ⟨0, 0, 0, 0, 0, 0, 1⟩,
      .responseFlit 0 ⟨0, 0, 0, 0, 0, 0, 1⟩, .snapFlit 0 ⟨0, 0, 0, 0, 0, 0, 1⟩,
      .badFlit 0 8 ⟨0, 0, 0, 0, 0, 0, 0⟩] : List Instr).all (fun i => !wellFormed i) = true := by decide +kernel

theorem test_well_formed :
    ([.nop 0 (.raw (.c16 0)), .reelNop 0 0 0, .channelStart .host 0 0 0x80000000, .add 0 (.c 1 2), .rd 1 0 0,
      .rstctlRefused .host 0, .dmaBurst 0 0 [63], .kscmdUnknown .host 5] : List Instr).all wellFormed = true := by
  decide +kernel

/-! ### Units -/

/-- Every encoding of the list issues at unit 0 in state `x`. -/
def AllIssue (x : UnitSt) (l : List Enc) : Prop := ∀ e, e ∈ l → Issues (atE x e) 0 e

/-- The encodings of R form, of I form, and 16-bit ones of the statements about results. -/
def encs : List Enc :=
  [encReg 1 1 0x01 0 (.c 1 2), encReg 1 1 0x01 0 (.r ⟨1, 2, 0, 3⟩), encReg 1 2 0x01 1 (.c 1 2), eR 0x01 2 ⟨1, 2, 0, 3⟩,
   eR 0x01 3 ⟨1, 2, 0, 3⟩, encReg 1 7 0x01 15 (.c 1 2), encReg 1 7 0x01 15 (.r ⟨1, 0, 0, 3⟩), encAddi (.c 1 2),
   encAddi (.i ⟨1, 2, 0x7FFF⟩), encReg 1 6 0x01 12 (.c 1 2), eI 0x08 ⟨1, 0, 5⟩, e16 2 1 2 6,
   encReg 1 3 0x01 4 (.c 1 2), encReg 1 4 0x01 5 (.c 1 2), encReg 1 5 0x01 6 (.c 1 2), eR 0x01 7 ⟨1, 2, 0, 3⟩,
   eI 0x04 ⟨1, 2, 3⟩, eI 0x05 ⟨1, 2, 3⟩, eI 0x06 ⟨1, 2, 3⟩, encShift 0 (.c 1 2), encShift 1 (.r ⟨1, 2, 0, 3⟩),
   encShift 2 (.cs 1 31), encShift 3 (.i 1 2 0 31), eR 0x01 13 ⟨1, 2, 0, 3⟩, eR 0x01 14 ⟨1, 2, 0, 3⟩, e16 1 1 2 0,
   e16 4 1 15 7, eU 0x09 1 0xFFFFF, eU 0x0A 1 1, encReg 2 4 0x02 0 (.c 1 2), encReg 2 5 0x02 1 (.r ⟨1, 2, 0, 0⟩),
   eR 0x02 2 ⟨1, 2, 0, 3⟩, encWord 6 0x10 (.c 1 2 0), eI 0x11 ⟨2, 1, 0⟩, encSub 0 0x12 (.c 1 2 0), eI 0x13 ⟨2, 1, 0⟩,
   encSub 1 0x14 (.c 1 2 0), eI 0x19 ⟨2, 1, 0⟩, e16 0xD 1 8 0, encWord 7 0x15 (.c 1 2 0), encSub 2 0x16 (.c 1 2 0),
   encSub 3 0x17 (.c 1 2 0), e16 0xD 1 7 0, encAmo 0 (.c 1 2 0), encAmo 1 (.c 1 2 0), encBranch (.c 0 4),
   encBranch (.b 1 0 4), encJump 0xB 0x21 (.c 4), encJr 5 0 (.c 1 0), eI 0x24 ⟨1, 0, 2⟩, encJump 0xC 0x22 (.j 4),
   encJr 6 1 (.c 1 0), e16 0xD 0 1 0, encSpr 0 0 (.c 1 0 9), encSpr 1 1 (.c 1 0 9), encSys 3 1 (.c 0 0),
   eR 0x25 7 ⟨1, 0, 0, 0⟩, eR 0x25 8 ⟨1, 2, 0, 0⟩, eR 0x25 9 ⟨1, 2, 0, 0⟩, eR 0x1A 0 ⟨1, 2, 0, 3⟩,
   eR 0x1A 1 ⟨1, 2, 0, 3⟩, eR 0x1A 2 ⟨1, 2, 0, 3⟩, encSys 4 0 (.c 0 0), encSys 9 3 (.c 0 0), encTrap (.c 0 1),
   encSys 2 2 (.c 0 0), eR 0x25 5 ⟨1, 0, 0, 0⟩, eR 0x25 6 ⟨0, 0, 0, 0⟩, encNop (.sys (.c 0 0)), .c16 0,
   encNop (.sys (.c 1 0)), encCx ⟨0, 0, 3, 0⟩]

theorem test_meets_Issues :
    AllIssue unit0 encs ∧ AllIssue (withE eeS) encs ∧ AllIssue (withE mS) encs ∧ AllIssue (withE uS) encs := by
  unfold AllIssue Issues; decide +kernel

theorem test_meets_Arithmetic :
    regBad (.c 1 2) = false ∧ regBad (.r ⟨1, 2, 0, 3⟩) = false ∧ regBadRd (.c 1 2) = false ∧
      regBadRd (.r ⟨1, 2, 0, 0⟩) = false ∧ (withE 0x44800).spr.ove = true ∧ (unit0.spr.ove = false) ∧
      outOfRange ((0x7FFFFFFF : Word).toInt + (1 : Word).toInt) = true ∧
      outOfRange ((0x7FFFFFFE : Word).toInt + (1 : Word).toInt) = false := by decide +kernel

theorem test_meets_OverflowTrap :
    let s := atE (((withE 0x46800).setG 1 0x7FFFFFFF).setG 2 1) (encReg 1 1 0x01 0 (.c 1 2))
    (s.u 0).spr.ove = true ∧ (s.u 0).ee = true ∧ outOfRange ((srcA s 0 (.c 1 2)).toInt + (srcB s 0 (.c 1 2)).toInt) = true ∧
      Issues s 0 (encReg 1 1 0x01 0 (.c 1 2)) ∧
      outOfRange ((srcA s 0 (.r ⟨2, 3, 0, 4⟩)).toInt - (srcB s 0 (.r ⟨2, 3, 0, 4⟩)).toInt) = false := by
  unfold Issues; decide +kernel

theorem test_meets_OverflowTrap_sub :
    let x := ((withE 0x46800).setG 1 0x80000000).setG 2 1
    let s := atE x (encReg 1 2 0x01 1 (.c 1 2))
    outOfRange ((srcA s 0 (.c 1 2)).toInt - (srcB s 0 (.c 1 2)).toInt) = true ∧
      Issues s 0 (encReg 1 2 0x01 1 (.c 1 2)) ∧ Issues (atE x (encReg 1 6 0x01 12 (.c 1 2))) 0 (encReg 1 6 0x01 12 (.c 1 2)) := by
  unfold Issues; decide +kernel

theorem test_meets_OverflowTrap_forms :
    let x := (withE 0x46800).setG 1 0x7FFFFFFF
    let m := (withE 0x46800).setG 2 0x80000000
    Overflowing (at0 (x.setG 2 1)) 0 (.adc 0 ⟨1, 2, 0, 3⟩) (eR 0x01 2 ⟨1, 2, 0, 3⟩) ∧
      Overflowing (at0 (m.setG 1 0x7FFFFFFF)) 0 (.sbc 0 ⟨1, 2, 0, 3⟩) (eR 0x01 3 ⟨1, 2, 0, 3⟩) ∧
      Overflowing (at0 m) 0 (.neg 0 (.c 1 2)) (encReg 1 7 0x01 15 (.c 1 2)) ∧
      Overflowing (at0 m) 0 (.neg 0 (.r ⟨2, 0, 0, 3⟩)) (encReg 1 7 0x01 15 (.r ⟨2, 0, 0, 3⟩)) ∧
      Overflowing (at0 x) 0 (.addi 0 (.c 1 1)) (encAddi (.c 1 1)) ∧
      Overflowing (at0 x) 0 (.addi 0 (.i ⟨1, 2, 1⟩)) (encAddi (.i ⟨1, 2, 1⟩)) ∧
      Overflowing (at0 (m.setG 1 1)) 0 (.cmp 0 (.c 2 1)) (encReg 1 6 0x01 12 (.c 2 1)) ∧
      Overflowing (at0 m) 0 (.cmpi 0 ⟨2, 0, 1⟩) (eI 0x08 ⟨2, 0, 1⟩) := by
  refine ⟨?_, ?_, ?_, ?_, ?_, ?_, ?_, ?_⟩
  · exact .inr (.inr (.inl ⟨_, rfl, rfl, rfl, by decide +kernel⟩))
  · exact .inr (.inr (.inr (.inl ⟨_, rfl, rfl, rfl, by decide +kernel⟩)))
  · exact .inr (.inr (.inr (.inr (.inl ⟨_, _, rfl, rfl, by decide +kernel⟩))))
  · exact .inr (.inr (.inr (.inr (.inr (.inl ⟨_, rfl, rfl, rfl, rfl, by decide +kernel⟩)))))
  · exact .inr (.inr (.inr (.inr (.inr (.inr (.inl ⟨_, _, rfl, rfl, by decide +kernel⟩))))))
  · exact .inr (.inr (.inr (.inr (.inr (.inr (.inr (.inl ⟨_, rfl, rfl, by decide +kernel⟩)))))))
  · exact .inr (.inr (.inr (.inr (.inr (.inr (.inr (.inr (.inl ⟨_, rfl, rfl, rfl, by decide +kernel⟩))))))))
  · exact .inr (.inr (.inr (.inr (.inr (.inr (.inr (.inr (.inr ⟨_, rfl, rfl, rfl, by decide +kernel⟩))))))))

theorem test_meets_OverflowTrap_divide :
    let s := at0 { withE 0x46C00 with stat := .divide 2 3 0x80000000 0xFFFFFFFF 0 }
    let t := at0 { withE 0x46C00 with stat := .divide 5 3 7 0 0 }
    (s.u 0).stat = .divide 2 3 0x80000000 0xFFFFFFFF 0 ∧ (s.u 0).ee = true ∧ (s.u 0).spr.ove = true ∧
      (0x80000000 : Word).toInt = -2 ^ 31 ∧ (0xFFFFFFFF : Word).toInt = -1 ∧ (t.u 0).stat = .divide 5 3 7 0 0 ∧
      (t.u 0).ee = true ∧ (t.u 0).spr.dze = true := by decide +kernel

theorem test_meets_Multiply : ({ unit0 with prods := [5] } : UnitSt).prods = 5 :: [] := rfl

theorem test_meets_Divide :
    let s := at0 { unit0 with stat := .divide 2 3 0x80000000 0xFFFFFFFF 0 }
    let t := at0 { unit0 with stat := .divide 5 3 7 0 0 }
    (s.u 0).stat = .divide 2 3 0x80000000 0xFFFFFFFF 0 ∧ (s.u 0).spr.ove = false ∧
      (t.u 0).stat = .divide 5 3 7 0 0 ∧ (t.u 0).spr.dze = false := by decide +kernel

/-- Unit 0 with a bank address in g2 and DSP inside the bank. -/
def memU : UnitSt := (((unit0.setG 2 0x100).setG 3 0x200).setG 1 0x5).setS fun r => { r with dsp := 0x80 }

theorem test_meets_Loads :
    let s := at0 memU
    OnMem s 0 0x100 4 0x100 ∧ OnMem s 0 0x100 2 0x100 ∧ OnMem s 0 0x100 1 0x100 ∧ OnMem s 0 0x80 4 0x80 ∧
      OnMem s 0 0x7C 4 0x7C ∧ (wordOps (s.u 0) (.c 1 2 0)).1 = 0x100 ∧ (longEa (s.u 0) ⟨2, 1, 0⟩) = 0x100 ∧
      Unwatched s 0 27 0x100 0 ∧ Unwatched s 0 28 0x100 5 ∧ Unwatched s 0 29 0x100 5 ∧
      AllIssue memU [encWord 6 0x10 (.c 1 2 0), e16 0xD 1 8 0, e16 0xD 1 7 0] := by
  refine ⟨?_, ?_, ?_, ?_, ?_, ?_, ?_, rfl, rfl, rfl, ?_⟩
  iterate 5
    (refine ⟨by decide +kernel, by decide +kernel, .inl ⟨0, 0, by decide +kernel, by decide +kernel, by decide +kernel⟩⟩)
  iterate 2 decide +kernel
  unfold AllIssue Issues; decide +kernel

theorem test_meets_Loads_region :
    let s := at0 memU
    OnMem s 0 0x02000000 4 (regKey 0 0) := by
  refine ⟨by decide +kernel, by decide +kernel, .inr ⟨0, 0, by decide +kernel, rfl, by decide +kernel, by decide +kernel,
    by decide +kernel⟩⟩

theorem test_meets_Loads_mode : ((at0 (withE mS)).u 0).mode = 3 := by decide +kernel

theorem test_meets_Stores : amoBad (.c 1 2 0) = false ∧ amoBad (.r ⟨1, 2, 0, 3⟩) = false := by decide +kernel

theorem test_meets_Branches :
    branchBad (.c 1 4) = false ∧ branchBad (.b 1 0 4) = false ∧ condHolds 0 (0x44000 : Word) = true ∧
      condHolds 1 (0x44000 : Word) = false ∧ condHolds 1 (0x44002 : Word) = true ∧ jrBad (.c 1 0) = false ∧
      jrBad (.r ⟨1, 0, 0, 0⟩) = false ∧ bit (jrOps (memU.setG 1 0x40) (.c 1 0)) 0 = false ∧
      FlagsAre 0 0x1 (bit ((1 : Word) - 2) 31) (decide ((1 : Word) - 2 = 0)) (noBorrow 1 2 0)
        (outOfRange ((1 : Word).toInt - (2 : Word).toInt)) := by
  refine ⟨?_, ?_, ?_, ?_, ?_, ?_, ?_, ?_, ?_, ?_, ?_, ?_, ?_⟩
  iterate 12 decide +kernel
  intro i hi
  show Nat.testBit 1 i = Nat.testBit 0 i
  rw [Nat.zero_testBit, Nat.testBit_lt_two_pow]
  exact Nat.lt_of_lt_of_le (by decide : 1 < 2 ^ 4) (Nat.pow_le_pow_right (by decide) hi)

theorem test_meets_FetchedFirst :
    let e := encReg 1 1 0x01 0 (.c 1 2)
    let h : Half := match e with | .c16 h => h | .w32 i => i.extractLsb' 0 16
    let s := (at0 unit0).setLE (bankKey 0 0) h.toNat 2
    encOf (.add 0 (.c 1 2)) = some (0, e) ∧ (s.u 0).wrap = false ∧ (s.u 0).hq = [] ∧ s.ready 0 = true ∧
      s.fetchKey 0 (s.u 0).pc = some (bankKey 0 0) ∧ s.syn (bankKey 0 0) = 0 ∧ s.leN (bankKey 0 0) 2 = h.toNat ∧
      (at0 unit0).leN (bankKey 0 0) 2 ≠ h.toNat ∧
      (match s.fetch 0 e with
        | .ok t => t.ready 0 && (match t.fetch 0 e with | .ok _ => true | _ => false)
        | _ => false) = true := by decide +kernel

/-- Unit 0 with RSE, a full return stack and TOP above FLOOR. -/
def stackU : UnitSt :=
  (withE 0x45000).setS fun r => { r with rs := (List.range 16).map fun i => w32 (2 * i), rsp := 0x00400100 }

theorem test_meets_ReturnStack :
    let s := at0 stackU
    let r := (s.u 0).spr
    let e := encJump 0xC 0x22 (.c 4)
    r.rs.length = 16 ∧ r.rse = true ∧ r.top ≠ 0 ∧ r.floor ≤ r.top - 1 ∧ r.spilled < 16383 ∧ HomeWord s 0 (r.top - 1) ∧
      Issues (atE stackU e) 0 e ∧ Unwatched s 0 28 (w32 (s.logU 0 % 8 * 0x10000 + 4 * (r.top - 1))) (r.rs.getLast?.getD 0) ∧
      ((at0 unit0).u 0).spr.rs.length < 16 := by
  refine ⟨?_, ?_, ?_, ?_, ?_, ?_, ?_, rfl, ?_⟩
  iterate 5 decide +kernel
  · unfold HomeWord; decide +kernel
  · unfold Issues; decide +kernel
  · decide +kernel

theorem test_meets_ReturnStack_over :
    let x := (withE 0x46000).setS fun r => { r with rs := (List.range 16).map fun i => w32 (2 * i) }
    x.ee = true ∧ x.spr.rs.length = 16 ∧ x.spr.rse = false ∧
      AllIssue x [encJump 0xC 0x22 (.c 4), encJr 6 1 (.c 1 0)] := by unfold AllIssue Issues; decide +kernel

theorem test_meets_ReturnStack_ret :
    let s := atE ((withE 0x45000).setS fun r => { r with spilled := 1, rsp := 0x00400100 }) (e16 0xD 0 1 0)
    let r := (s.u 0).spr
    let v := s.leN (homeKey s 0 r.top) 4
    Issues s 0 (e16 0xD 0 1 0) ∧ r.rs = [] ∧ r.rse = true ∧ r.spilled ≠ 0 ∧ HomeWord s 0 r.top ∧ v % 2 = 0 ∧
      Unwatched s 0 27 (w32 (s.logU 0 % 8 * 0x10000 + 4 * r.top)) (w32 v) := by
  refine ⟨?_, rfl, ?_, ?_, ?_, ?_, rfl⟩
  · unfold Issues; decide +kernel
  · decide +kernel
  · decide +kernel
  · unfold HomeWord; decide +kernel
  · decide +kernel

theorem test_meets_ReturnStack_flush :
    let s := atE ((unit0.setG 1 0x80000000).setS fun r => { r with rs := [4, 8], rsp := 0x00400100 }) (encSpr 1 1 (.c 1 0 3))
    let r := (s.u 0).spr
    let v := (s.u 0).gr (sprOps (.c 1 0 3)).2
    sprBad (.c 1 0 3) = false ∧ (sprOps (.c 1 0 3)).1 = 3 ∧ bit v 31 = true ∧ (s.u 0).mode ≠ 0 ∧
      Issues s 0 (encSpr 1 1 (.c 1 0 3)) ∧ r.rs.length ≤ 16 ∧ r.rs.length ≤ r.top ∧ r.floor + r.rs.length ≤ r.top ∧
      fld v 16 14 + r.rs.length ≤ 16383 ∧ (∀ w, w < r.top → HomeWord s 0 w) ∧ ∀ a x, Unwatched s 0 28 a x := by
  refine ⟨?_, ?_, ?_, ?_, ?_, ?_, ?_, ?_, ?_, ?_, fun _ _ => rfl⟩
  iterate 4 decide +kernel
  · unfold Issues; decide +kernel
  iterate 4 decide +kernel
  · unfold HomeWord; decide +kernel

theorem test_meets_SpecialRegisters :
    sprBad (.c 1 0 9) = false ∧ sprHidden (sprOps (.c 1 0 9)).1 = false ∧ estatCheck 1 0x44000 0x46000 = 0 ∧
      estatCheck 0 0x40000 0x4000F = 0 ∧ (unit0.mode ≠ 0) ∧ sprShut 0 = false ∧ unit0.spr.rs = [] := by decide +kernel

theorem test_meets_UserStatusWrites :
    let f : SprForm := .c 1 0 9
    let s := atE ((withE uS).setG 1 0x4000F) (encSpr 1 1 f)
    let t := atE ((withE 0x42000).setG 1 0x40000) (encSpr 1 1 f)
    let q := atE ((withE uS).setG 1 0x44000) (encSpr 1 1 f)
    sprBad f = false ∧ (sprOps f).1 = 9 ∧ (s.u 0).mode = 0 ∧ Issues s 0 (encSpr 1 1 f) ∧
      (∀ i, i ∈ guardedBits → bit ((s.u 0).gr 1) i = bit (s.u 0).spr.estat i) ∧
      (t.u 0).mode = 0 ∧ (t.u 0).ee = true ∧ Issues t 0 (encSpr 1 1 f) ∧
      bit ((t.u 0).gr 1) 13 ≠ bit (t.u 0).spr.estat 13 ∧ (q.u 0).ee = false ∧ Issues q 0 (encSpr 1 1 f) ∧
      bit ((q.u 0).gr 1) 14 ≠ bit (q.u 0).spr.estat 14 := by unfold Issues; decide +kernel

theorem test_meets_SleepAndEvents :
    let s := atE { unit0 with evt := true } (encSys 3 1 (.c 0 0))
    let t := (at0 unit0).setC 0 { Clu.reset with sev := [0] }
    sysBad (.c 0 0) = false ∧ s.unitUp 0 = true ∧ (s.u 0).evt = true ∧ Issues s 0 (encSys 3 1 (.c 0 0)) ∧
      s.anyPend 0 = false ∧
      (at0 { unit0 with lates := [(0, 2)] }).anyPend 0 = true ∧ (s.u 0).stbuf = [] ∧
      t.eventBit 0 = some 0 ∧ 0 ∈ (t.c (cOf 0)).sev ∧ t.unitUp 0 = true ∧ (t.u 0).stat ≠ .wfe ∧
      ((at0 { unit0 with stat := .wfe }).u 0).replay = false := by unfold Issues; decide +kernel

theorem test_meets_WaitForTime :
    let s := at0 { unit0 with stat := .waitt 0 }
    let t := at0 { withE eeS with stat := .waitt 5, lates := [(0, 2)] }
    (s.u 0).stat = .waitt 0 ∧ (0 : DWord).toNat ≤ s.T ∧ (s.u 0).ee = false ∧ t.T < (5 : DWord).toNat ∧
      t.takeable 0 = true ∧ t.unitUp 0 = true ∧ (t.u 0).micro = none ∧
      ((t.setC 0 { Clu.reset with sev := [0] }).eventBit 0 = some 0) := by decide +kernel

theorem test_meets_BlockInstructions :
    let s := at0 memU
    let z : RF := ⟨2, 4, 0, 3⟩
    let f : RF := ⟨2, 1, 0, 3⟩
    (∀ n, n < 3 → BlockIssues (atE memU (eR 0x1A n z)) 0 (eR 0x1A n z) z) ∧ gReg s 0 z.rs2 = 0 ∧
      (∀ n, n < 3 → BlockIssues (atE memU (eR 0x1A n f)) 0 (eR 0x1A n f) f) ∧ gReg s 0 f.rs2 ≠ 0 ∧
      OnMem s 0 (gReg s 0 f.rs1) 4 0x100 ∧ OnMem s 0 (gReg s 0 f.rd) 4 0x200 ∧
      Unwatched s 0 27 (gReg s 0 f.rs1) 0 ∧ Unwatched s 0 28 (gReg s 0 f.rd) 0 := by
  refine ⟨?_, ?_, ?_, ?_, ?_, ?_, rfl, rfl⟩
  · unfold BlockIssues Issues; decide +kernel
  · decide +kernel
  · unfold BlockIssues Issues; decide +kernel
  · decide +kernel
  iterate 2
    exact ⟨by decide +kernel, by decide +kernel, .inl ⟨0, 0, by decide +kernel, by decide +kernel, by decide +kernel⟩⟩

theorem test_meets_FenceAndCheckpoint :
    let b : HStore := ⟨0x80000000, 0, 2, 0, 0, false, 1⟩
    let l := [encSys 4 0 (.c 0 0), encSys 9 3 (.c 0 0)]
    NoStores (at0 unit0) 0 ∧ unit0.mode ≠ 0 ∧ ((at0 { unit0 with stbuf := [b] }).u 0).stbuf ≠ [] ∧
      AllIssue unit0 l ∧ AllIssue { unit0 with stbuf := [b] } l ∧ AllIssue { unit0 with lates := [(0, 2)] } l ∧
      ((at0 { unit0 with stat := .ckpt 2 }).u 0).stat = .ckpt 2 ∧ (at0 unit0).logU 0 < 8 := by
  unfold NoStores AllIssue Issues; decide +kernel

theorem test_meets_TrapAndReturn :
    trapBad (.c 0 1) = false ∧ trapBad (.r 0 1 0 0) = false ∧ (withE eeS).ee = true ∧ sysBad (.c 0 0) = false ∧
      unit0.mode = 1 ∧ unit0.spr.pmode ≠ 3 ∧ (withE mS).mode = 3 ∧ sysBad (.c 1 0) = true := by decide +kernel

theorem test_meets_ExceptionEntryOrder :
    let w := (withE eeS).setD fun d => { d with wp := some (1, 0x40) }
    let q := (withE eeS).setD fun d => { d with req := true }
    let g := (withE eeS).setD fun d => { d with wdw := some 3 }
    let l : UnitSt := { withE eeS with lates := [(0x80000000, 2)] }
    let i := reg1 (pgUnit 0) 0x200 0x81000001 (at0 { withE eeS with irq := 1 })
    (at0 w).entryPoint 0 = true ∧ (at0 q).entryPoint 0 = true ∧ (at0 g).entryPoint 0 = true ∧
      (at0 l).entryPoint 0 = true ∧ i.entryPoint 0 = true ∧ i.srcBest 0 = some 0 ∧ (at0 unit0).entryPoint 0 = false := by
  decide +kernel

theorem test_meets_Lockup : (unit0.ee = false) ∧ Issues (atE unit0 (.c16 0)) 0 (.c16 0) := by unfold Issues; decide +kernel

theorem test_meets_HostMasterPort :
    let b : HStore := ⟨0x80000000, 0x40, 2, 0xAB, 0, false, 1⟩
    let j : Job := ⟨.load, 0x80000000, 2, 0, 0, 4, false, .reg 1 false⟩
    let r : HReq := ⟨0, false, 0x40, 2, .read, false, false⟩
    let s := { at0 { withE eeS with stat := .hread j } with hreqs := [r] }
    let d := { at0 { unit0 with stbuf := [b] } with hreqs := [] }
    let w := { at0 unit0 with hreqs := [⟨0, true, 0x40, 2, .store 0x80000000, false, false⟩] }
    (d.u 0).stbuf = b :: [] ∧ d.hostUp = true ∧ (d.u 0).stat = .run ∧ AwaitsHost s 0 r j ∧ (s.u 0).ee = true ∧
      Unwatched s 0 27 j.va 0 ∧ (w.u 0).stat = .run ∧ d.hreqs = [] := by
  refine ⟨rfl, ?_, rfl, ?_, ?_, rfl, rfl, rfl⟩
  · decide +kernel
  · unfold AwaitsHost; decide +kernel
  · decide +kernel

/-- A control store whose first word adds rs1 and rs2 into rd and dispatches, and decode-table entry 0 that runs it. -/
def mword : BitVec 128 :=
  BitVec.ofNat 128 (5 * 2 ^ 113 + 0x21 * 2 ^ 80 + 0x22 * 2 ^ 74 + 0x20 * 2 ^ 68 + 2 * 2 ^ 63 + 1 * 2 ^ 58)

theorem test_meets_CustomerInstructions :
    let f : CxF := ⟨0, 0x0840, 3, 0⟩
    let y := withQ unit0 (encCx f)
    let s := (at0 { y with hq := y.hq.map fun q => { q with cx := 0x80000000 } }).setC 0 { Clu.reset with wcs := [(0, mword)] }
    let x := s.u 0
    let entry := s.cxEntry 0 f.slot.toNat
    let m := microStart x entry (encCx f).info
    let w := (s.readWcs 0 (m.upc - 0x800)).1
    Issues s 0 (encCx f) ∧ bit entry 31 = true ∧ fld entry 27 2 ≠ 3 ∧ fld entry 29 2 ≠ 2 ∧
      cxMode entry x.mode = true ∧ s.readWcs 0 (m.upc - 0x800) = (w, false, s) ∧ badWord m.fmt w = false ∧
      mwSeq w = 5 ∧ mwMem w = 0 ∧ mwSide w = 0 ∧ mwSpw w = false ∧ mwWsrc w = 1 ∧ mwRw w = 0x20 ∧ mwMcnt w = 0 ∧
      bit ((at0 y).cxEntry 0 f.slot.toNat) 31 = false := by unfold Issues; decide +kernel

/-! ### Reels -/

/-- A legal word of each assigned Reel operation, with its operation and fields. -/
def reelWords : List (BitVec 5 × RI) :=
  [(0x00, f0), (0x01, ⟨0, 1, 2, 0, 0, 0xFFFF⟩), (0x02, ⟨0, 0, 7, 0, 0, 1⟩), (0x03, ⟨0, 0, 1, 2, 0, 0⟩),
   (0x04, ⟨0, 3, 1, 2, 0, 0⟩), (0x04, ⟨0, 0, 1, 0, 2, 9⟩), (0x05, ⟨0, 3, 1, 2, 0, 0⟩), (0x06, f0), (0x07, f0),
   (0x08, ⟨0, 1, 0, 0, 3, 0⟩), (0x08, f0), (0x09, ⟨0, 0, 0, 0, 1, 1⟩), (0x09, ⟨0, 1, 0, 0, 1, 1⟩), (0x0A, f0),
   (0x0A, ⟨0, 1, 0, 0, 0, 0⟩), (0x0B, f0), (0x0B, ⟨0, 1, 0, 0, 3, 0⟩), (0x0B, ⟨0, 3, 0, 0, 3, 0⟩), (0x0C, f0),
   (0x0C, ⟨0, 2, 0, 1, 0, 0⟩), (0x0D, f0), (0x0D, ⟨0, 1, 0, 0, 0, 0⟩), (0x0E, ⟨0, 2, 6, 0, 0, 511⟩),
   (0x0F, ⟨0, 0, 0, 0, 0, 511⟩), (0x10, ⟨0, 1, 0, 1, 0, 0⟩), (0x11, ⟨0, 1, 1, 0, 0, 0⟩), (0x12, ⟨0, 0, 1, 0, 0, 3⟩),
   (0x12, ⟨0, 1, 1, 2, 0, 0xF3⟩), (0x13, ⟨1, 0, 0, 0, 0, 255⟩), (0x14, ⟨0, 3, 1, 0, 0, 0⟩),
   (0x15, ⟨0, 3, 0, 0, 0, 0⟩), (0x15, f0), (0x16, ⟨0, 3, 0, 0, 0, 0⟩), (0x16, ⟨0, 2, 0, 0, 0, 0⟩), (0x16, f0),
   (0x17, f0)]

theorem test_meets_legal : reelWords.all (fun e => reelLegal e.1.toNat e.2) = true := by decide +kernel

/-- The held form of a word that has not been evaluated. -/
def fresh (w : Word) : Held := ⟨w, false, 0, false, false⟩

/-- Reel 0 with the word `e` injected into slot 0. -/
def injected (e : BitVec 5 × RI) : State := reel0 { Chan.reset with inj := some (fresh (encRi e.1 e.2)) }

/-- Each of these words is served when it is injected, or latched, or stands at PC. -/
theorem test_meets_Serves (e : BitVec 5 × RI) (he : e ∈ reelWords) :
    Serves (injected e) 0 0 (encRi e.1 e.2) true (fresh (encRi e.1 e.2)) := by
  have h : ∀ e, e ∈ reelWords → (injected e).reelUp 0 = true ∧ (injected e).running 0 0 = true ∧
      (injected e).slotNow 0 0 = true ∧ ((injected e).chan 0 0).inj = some (fresh (encRi e.1 e.2)) ∧
      ((injected e).chan 0 0).synd = [] := by decide +kernel
  obtain ⟨a, b, c, d, g⟩ := h e he
  exact ⟨a, b, c, fun i => by show Tab.get 0 ((injected e).chan 0 0).synd i = 0; rw [g]; rfl, rfl, .inl ⟨rfl, d⟩⟩

theorem test_meets_Serves_held :
    Serves (reel0 { Chan.reset with held := some (fresh 1) }) 0 0 1 false (fresh 1) :=
  ⟨by decide +kernel, by decide +kernel, by decide +kernel, fun _ => rfl, rfl,
    .inr (.inl ⟨rfl, by decide +kernel, by decide +kernel⟩)⟩

theorem test_meets_Serves_pc : Serves (reel0 Chan.reset) 0 0 0 false (fresh 0) :=
  ⟨by decide +kernel, by decide +kernel, by decide +kernel, fun _ => rfl, rfl,
    .inr (.inr ⟨rfl, by decide +kernel, by decide +kernel, rfl, 0, by decide +kernel⟩)⟩

theorem test_meets_ReelRegisterFile :
    ((reel0 Chan.reset).setCreg 0 0 0 5 false).isSome = true ∧ ((reel0 Chan.reset).setCreg 0 0 4 5 true).isSome = true ∧
      ((reel0 Chan.reset).setCreg 0 0 5 0xFFFFFFFF false).isSome = true := by decide +kernel

theorem test_meets_ReelPins : PinFree (reel0 Chan.reset) 0 0 0 ∧ PinFree (reel0 Chan.reset) 0 0 7 := by
  unfold PinFree; decide +kernel

theorem test_meets_ReelControl : reelLegal ((0xC0000000 : Word).toNat / 2 ^ 27) (riOf 0xC0000000) = false := by
  decide +kernel

theorem test_meets_ReelQueues :
    let e : QEnt := ⟨5, 0, 0⟩
    let s := (reel0 Chan.reset).onR 0 fun x => x.setTx 0 [e]
    (s.r 0).txq (s.owner 0 0) = e :: [] ∧ e.synd = 0 ∧ ((reel0 Chan.reset).r 0).txq ((reel0 Chan.reset).owner 0 0) = [] ∧
      (reel0 Chan.reset).rbit (pgReel 0) 0x080 30 = false ∧
      (reg1 (pgReel 0) 0x080 0xC0000000 (reel0 Chan.reset)).rbit (pgReel 0) 0x080 30 = true := by decide +kernel

/-- Reel 0 with valid bit-timing sets (PERIOD 10, SP 6, SJW 2) on slot 0 and the sampler `x`. -/
def smp0 (x : Smp) : State :=
  reg1 (pgReel 0) 0x200 10 (reg1 (pgReel 0) 0x204 0x02000006 (reg1 (pgReel 0) 0x208 10
    (reg1 (pgReel 0) 0x20C 0x02000006 (reel0 { Chan.reset with smp := x }))))

theorem test_meets_SamplerInstructions :
    ValidSet (smp0 Smp.reset) 0 0 0 ∧ ValidSet (smp0 Smp.reset) 0 0 1 ∧ ¬ValidSet (reel0 Chan.reset) 0 0 0 ∧
      ((smp0 { Smp.reset with on := true }).chan 0 0).smp.on = true ∧
      ((smp0 { Smp.reset with on := true, sampled := true }).chan 0 0).smp.sampled = true ∧
      ((smp0 Smp.reset).chan 0 0).smp.setB = none := by unfold ValidSet; decide +kernel

theorem test_meets_PadsAndBits :
    let s := smp0 { Smp.reset with on := true, bcyc := 10, bt := ⟨0, 10, 6, 2, 0⟩ }
    let x := (s.chan 0 0).smp
    s.reelUp 0 = true ∧ s.running 0 0 = true ∧ x.on = true ∧ x.sampled = false ∧ x.bt.q * x.bt.sp ≤ x.bcyc ∧
      x.bt.len ≤ x.bcyc ∧ fld (s.reg (pgReel 0) 0x1C0) 8 2 = 0 ∧ x.appl = none ∧ x.setS = none ∧ x.setB = none := by
  decide +kernel

theorem test_meets_PadsAndBits_early :
    let s := smp0 { Smp.reset with on := true, bcyc := 5, bt := ⟨0, 10, 6, 2, 0⟩ }
    s.reelUp 0 = true ∧ s.running 0 0 = true ∧ (s.chan 0 0).smp.on = true ∧
      (s.chan 0 0).smp.bcyc < (s.chan 0 0).smp.bt.q * (s.chan 0 0).smp.bt.sp ∧
      (s.chan 0 0).smp.bcyc < (s.chan 0 0).smp.bt.len := by decide +kernel

theorem test_meets_PadsAndBits_edge :
    Tab.get false run.pads 0 ≠ true ∧ ∀ r k, r < 80 → k < 16 → run.running r k = false := by
  refine ⟨by decide, ?_⟩
  have h : ∀ r, r < 80 → ∀ k, k < 16 → run.running r k = false := by decide +kernel
  exact fun r k a b => h r a k b

/-- The masters of the tests reach the page. -/
theorem test_meets_WriteReaches :
    ∀ p, p ∈ [0, pgSafe, pgDev, pgLoupe, pgTime, pgSheet, pgPower, pgClocks, 0x008, pgRec, pgPort 0, pgPort 15, 0x020,
        pgStage 1, pgStage 9, 0x025, 0x029, pgRegion 3, pgCommon 15, pgShutter 0, pgBanks 0, pgDma 0, pgNeg 0, pgMarch 0,
        pgXbar 0, pgUnit 0] →
      WriteReaches (at0 unit0) .host p ∧ WriteReaches (at0 unit0) (.unit 0) p ∧ ReadReaches (at0 unit0) .host p := by
  unfold WriteReaches ReadReaches; decide +kernel

theorem test_meets_WriteReaches_reel :
    WriteReaches (reel0 Chan.reset) .host (pgReel 0) ∧ ReadReaches (reel0 Chan.reset) .host (pgReel 0) := by
  unfold WriteReaches ReadReaches; decide +kernel

theorem test_meets_ChannelControl :
    let s := reel0 Chan.reset
    s.uphase 0 ≠ 4 ∧ s.running (s.physR 0) 0 = true ∧ s.running 0 1 = false ∧
      (Machine.sizeOf (fld (0x80000000 : Word) 12 3) = some 1 ∧ 1 < 16 / 1 ∧
        ∀ i, i ∈ slotsOf 1 1 → s.slotBusy 0 i = false) ∧
      Machine.sizeOf (fld (0x80004000 : Word) 12 3) = some 16 ∧ 16 / 16 ≤ 1 ∧
      Machine.sizeOf (fld (0x80007000 : Word) 12 3) = none ∧ fld (0x500 : Word) 8 2 ≠ 3 ∧
      fld (0x500 : Word) 10 4 ≠ 0 ∧ fld (0x300 : Word) 8 2 = 3 ∧ fld (0x100 : Word) 8 2 ≠ 0 ∧
      fld (0x100 : Word) 10 4 = 0 := by decide +kernel

/-! ### The frame path -/

/-- Frame port 0 enabled with its link up, and room for cells at every class of ports 0 and 16. -/
def fp0 : State :=
  let s := reg1 (pgPort 0) 0x044 0x80000000 (reg1 (pgPort 0) 0x040 0xC0FF05F2 (at0 unit0))
  (((s.setTw 6 0 1 100).setTw 6 1 1 100).setTw 6 128 1 100).setTw 6 129 1 100

/-- A gPTP frame of 64 bytes with a good FCS. -/
def ptpFrame : RxFrame :=
  ⟨withFcs ([0x01, 0x80, 0xC2, 0x00, 0x00, 0x0E, 2, 0, 0, 0, 0, 1, 0x88, 0xF7] ++ List.replicate 46 0), none, 77, 0, 0⟩

/-- A frame of 64 bytes held for the destination `d`. -/
def held64 (d : Nat) : Fr :=
  { bytes := withFcs (List.replicate 60 0), ccw := crc32c (List.replicate 60 0), src := 0, tc := 1, tsreq := true,
    yellow := false, ptp := false, ctok := false, sched := false, svalid := false, stream := 0, pcp := 0, vid := 1,
    dest := 0, ts := 0, seq := 0, cells := 1, addr := 0, synd := [], charge := [], dests := [d] }

theorem test_meets_FrameIngress :
    let s := reg1 0x020 0x040 0x80000000 fp0
    let p := parse ptpFrame.bytes 0 (s.pvid 0)
    s.fpUp 0 = true ∧ (at0 unit0).fpUp 0 = false ∧ rxFault s 0 ptpFrame = 0 ∧ bit (s.reg 0x020 0x040) 31 = true ∧
      p.ptp = true ∧ p.da = 0x0180C200000E ∧ s.admitCase 16 0 64 (cellsOf 64) true = 0 ∧
      rxFault s 0 ⟨[1, 2, 3], none, 0, 0, 0⟩ ≠ 0 ∧ bit (s.reg (pgPort 0) 0x040) 31 = true ∧
      fld (s.reg (pgPort 0) 0x040) 28 3 ≤ 4 ∧ s.awake 246 = true ∧ s.awake 262 = true ∧
      s.rfld (pgPort 0) 0x044 28 2 ≠ 1 ∧ (reg1 (pgPort 0) 0x044 0x90000000 s).rfld (pgPort 0) 0x044 28 2 = 1 := by
  decide +kernel

/-- `fp0` with frame 0 in the queue of class 1 of port 0 or 16, and its port in state `x`. -/
def queued (d : Nat) (x : Port) : State :=
  let s := fp0
  { s with fp := { s.fp with frames := [(0, some (held64 d))], queues := [(8 * d + 1, [0])], ports := [(0, x)] } }

def tx0 : Tx := ⟨0, 1, 0, 0, 0, false, none, none⟩

theorem test_meets_FrameEgress :
    let s := queued 0 Port.reset
    let h := queued 16 { Port.reset with held := some tx0 }
    let t := queued 0 { Port.reset with tx := some tx0 }
    s.fpUp 0 = true ∧ (s.port 0).tx = none ∧ (s.port 0).held = none ∧ s.fq 0 1 = 0 :: [] ∧
      s.frame 0 = some (held64 0) ∧ (∀ d, d < 8 → 1 < d → s.fq 0 d = []) ∧
      (s.credits 0).mayStart 0 1 64 s.T (max s.nowU (s.port 0).freeAt) = true ∧ (held64 0).synd = [] ∧
      ((queued 0 { Port.reset with tx := some { tx0 with out := some [1] } }).port 0).tx = some { tx0 with out := some [1] } ∧ h.fpUp 0 = true ∧ (h.port 0).tx = none ∧
      (h.port 0).held = some tx0 ∧ (∀ c, c < 8 → h.fq 0 c = []) ∧ h.holdMac 0 h.T = false ∧
      (t.port 0).tx = some tx0 ∧ t.frame tx0.id = some (held64 0) ∧ fcsOk (held64 0).bytes = true ∧
      (t.port 0).fifo.length < Config.egressFifo := by decide +kernel

/-- Cluster port 0 with both rings enabled; one transmit descriptor of a frame of 60 bytes, of zeros, at 0x1000. -/
def rings : State :=
  let s := [(0x204, 0x80000002), (0x208, 1), (0x210, 0x2000), (0x214, 0x80000002), (0x218, 0x4000)].foldl
    (fun s e => reg1 (pgCommon 0) e.1 e.2 s) fp0
  let s := s.setLE (bankKey 0 0) (60 * 65536 + 256) 4
  let s := s.setLE (bankKey 0 8) 1 4
  let s := s.setLE (bankKey 0 12) 0x1000 4
  let s := s.setLE (bankKey 0 24) 1 4
  s.setLE (bankKey 0 28) (crc32c (List.replicate 60 0)).toNat 4

theorem test_meets_FrameEgress_tx :
    let s := rings
    let w := txWord s 0
    s.cluUp 0 = true ∧ s.started = true ∧ s.awake 262 = true ∧ bit (s.reg (pgCommon 0) 0x204) 31 = true ∧
      s.rfld (pgCommon 0) 0x208 0 16 ≠ s.rfld (pgCommon 0) 0x20C 0 16 ∧ BankGood s 0 0 32 ∧
      fld (w 0) 16 16 = 60 ∧ fld (w 0) 8 3 = 1 ∧ BankGood s 0 (w 3).toNat 64 ∧ w 2 = w32 (2 ^ 0) ∧
      crc32c (s.bytesAt (bankKey 0 (w 3).toNat) 60) = w 7 ∧ w 6 - s.reg (pgCommon 0) 0x224 = 1 ∧
      s.admitCase 0 1 64 (cellsOf 64) true = 0 ∧ run.rfld (pgCommon 0) 0x208 0 16 = run.rfld (pgCommon 0) 0x20C 0 16 := by
  unfold BankGood; decide +kernel

theorem test_meets_FrameEgress_rx :
    let s := { queued 16 Port.reset with regs := rings.regs }
    let cfg := s.reg (pgCommon 0) 0x214
    s.cluUp 0 = true ∧ s.started = true ∧ s.awake 262 = true ∧ bit cfg 31 = true ∧ ringSize cfg = 4 ∧
      s.rfld (pgCommon 0) 0x21C 0 16 = s.rfld (pgCommon 0) 0x220 0 16 ∧ s.fq 16 1 = 0 :: [] ∧
      s.frame 0 = some (held64 16) ∧ (∀ d, d < 8 → 1 < d → s.fq 16 d = []) ∧ BankGood s 0 0x4000 60 ∧
      BankGood s 0 0x2000 32 ∧ (held64 16).ccw = crc32c (noFcs (held64 16).bytes) ∧
      (noFcs (held64 16).bytes).length = 60 ∧ s.arb = [] := by unfold BankGood; decide +kernel

theorem test_meets_FrameEgress_meets : ∀ i, (queued 16 Port.reset).meetsA i = false := by
  have h : ∀ k, ((queued 16 Port.reset).ab k).wrote = none := fun _ => rfl
  intro i
  unfold State.meetsA State.beforeA
  rw [h]
  split <;> rfl

theorem test_meets_TableWindows :
    tblWords 1 0 = some 20 ∧ tblWords 3 0x4000 = some 8 ∧ tblWords 8 0x2000 = some 8 ∧ tblWords 6 0 = some 2 ∧
      tblWords 8 0x2010 = none ∧ tblWords 6 256 = none ∧ (run.rfld (pgStage 1) 0x040 0 16 = 0) ∧
      ((queued 0 { Port.reset with fifo := [(5, 6)] }).port 0).fifo = (5, 6) :: [] ∧ (run.port 0).fifo = [] := by
  decide +kernel

/-- Parameters of gate list 0 with CHANGE = 1: one row, of 32 ns, and a cycle of 100 ns; and without the row. -/
def pars0 : State := reg1 (pgStage 3) 0x040 0x4000 (reg1 (pgStage 3) 0x080 0xC0000001 (reg1 (pgStage 3) 0x084 100 run))

theorem test_meets_TableWindows_params :
    let s := pars0.setTw 3 0 0 0x00010020
    let td := fun w => s.reg (pgStage 3) (0x080 + 4 * w)
    s.rfld (pgStage 3) 0x040 0 16 = 0x4000 ∧ bit (td 0) 30 = true ∧ ParamsGood s (paramList 3 0x4000) td ∧
      ¬ParamsGood pars0 (paramList 3 0x4000) td ∧ bit ((reg1 (pgStage 3) 0x080 1 s).reg (pgStage 3) 0x080) 30 = false ∧
      s.rsvSum - s.rsv 0 + 1 ≤ Config.cells ∧ Config.cells < (s.setTw 6 1 0 0xFFFF).rsvSum - s.rsv 0 + 0xFFFF ∧
      0x2000 / 0x2000 = 1 ∧ 0x1000 / 0x1000 = 1 ∧ WriteReaches s .host (pgStage 3) := by
  unfold ParamsGood WriteReaches; decide +kernel

/-! ### Lists, time and counters -/

/-- Region list 0 with one row of 100 ns and a cycle of 1,000 ns, and a change pending at 0. -/
def list0 : State :=
  (reg1 (pgRegion 0) 0x200 0x80000001 (reg1 (pgRegion 0) 0x204 1000 (reg1 (pgRegion 0) 0x400 100 run))).setSched
    (.region 0) { Sched.reset with pend := some 0 }

theorem test_meets_TimeDrivenLists :
    let s := list0
    ListGood s (.region 0) 1 ∧ ¬ListGood s (.region 0) 2 ∧ ¬ListGood run (.gate 0) (run.lAdmin (.gate 0)) ∧
      s.lAdmin (.region 0) = 1 ∧ s.listUp (.region 0) = true ∧ run.listUp (.port 0) = true ∧
      (s.sched (.region 0)).pend = some 0 ∧ (run.sched (.region 0)).pend = none := by
  unfold ListGood; decide +kernel

/-- Die 1 of a package of two dies, whose time master is die 0, with the link to it up. -/
def die1 : State := { run with saf := { run.saf with straps := 147 }, links := [(0, { Link.reset with up := true })] }

theorem test_meets_TimeBase :
    let q := { run with tim := { Tim.reset with stepPend := true, phase := 7 } }
    let e := { run with tim := { Tim.reset with slew := -1, phase := 7 } }
    AtEdge q ∧ AtEdge e ∧ ¬AtEdge run ∧
    run.follower = false ∧ run.tim.stepPend = false ∧ (reg1 pgTime 0x054 5 run).reg pgTime 0x054 ≠ 0 ∧
      q.tim.stepPend = true ∧ q.tim.slewAfter = false ∧
      q.saf.intake.length < Config.logIntake ∧ q.logAfter 0x30 = [] ∧ e.tim.slew = -1 ∧ e.tim.jump = none ∧
      e.tim.stepPend = false ∧ die1.follower = true ∧
      WriteReaches die1 .host pgTime := by
  unfold WriteReaches AtEdge; decide +kernel

theorem test_meets_TimePulses :
    let s := reg1 pgTime 0x080 0xC0000000 run
    let l := { s with tim := { s.tim with tpLate := [0] } }
    let o := { s with tim := { s.tim with tpOn := [(0, 1)] } }
    let f := reg1 pgTime 0x08C 5 run
    s.awake 263 = true ∧ bit (s.reg pgTime 0x080) 31 = true ∧ bit (s.reg pgTime 0x080) 30 = true ∧
      Tab.get 0 s.tim.tpOn 0 = 0 ∧ s.tpOut 0 ≤ s.T ∧ (0 : Nat) ∉ s.tim.tpLate ∧ s.T < s.tpOut 0 + s.tpWidth 0 ∧
      (0 : Nat) ∈ l.tim.tpLate ∧ Tab.get 0 o.tim.tpOn 0 = 0 + 1 ∧ 0 ≤ o.T ∧ f.T < f.tpOut 0 ∧
      bit (s.reg pgTime 0x080) 29 = false := by decide +kernel

theorem test_meets_ContactSheet :
    let s := reg1 pgSheet 0x048 0x80000000 run
    let f := reg1 pgSheet 0x040 5 run
    let d := { run with tim := { run.tim with snapT := 9 } }
    let c := reg1 pgSheet 0x058 (w32 (pgPort 0 * 65536 + 0x080)) run
    s.awake 244 = true ∧ s.rbit pgSheet 0x048 31 = true ∧ s.snapTarget ≤ s.T ∧ f.T < f.snapTarget ∧
      s.tim.snapT ≤ s.T ∧ d.T < d.tim.snapT ∧ kindOf (c.rfld pgSheet 0x058 16 14) = some (.fport, 0) ∧
      isCounter .fport (c.rfld pgSheet 0x058 2 10 * 4) = true := by decide +kernel

theorem test_meets_ClearingReads :
    ∀ p, p ∈ [pgBanks 0, pgMarch 0, pgSafe, pgLoupe, pgBanks 15, 0] → ReadReaches run .host p ∧ (kindOf p).isSome = true := by
  unfold ReadReaches; decide +kernel

/-! ### Cluster engines -/

/-- DMA channel 0 of cluster 0 set to move `cnt` beats from 0 to 0x100, with DMACTL `ctl`. -/
def dma0 (cnt ctl : Word) : State :=
  reg1 (pgDma 0) 0x104 0x100 (reg1 (pgDma 0) 0x108 cnt (reg1 (pgDma 0) 0x10C ctl run))

theorem test_meets_DmaChannels :
    let s := dma0 3 0
    let b := dma0 3 0x80000100
    let n := dma0 0 0
    s.rbit (pgDma 0) 0x10C 31 = false ∧ s.rfld (pgDma 0) 0x108 0 24 ≠ 0 ∧ (s.reg (pgDma 0) 0x100).toNat % 8 = 0 ∧
      (s.reg (pgDma 0) 0x104).toNat % 8 = 0 ∧ n.rfld (pgDma 0) 0x108 0 24 = 0 ∧
      ((reg1 (pgDma 0) 0x100 4 s).reg (pgDma 0) 0x100).toNat % 8 ≠ 0 ∧ b.cluUp 0 = true ∧ b.started = true ∧
      bit (b.reg (pgDma 0) 0x10C) 31 = true ∧ bit (b.reg (pgDma 0) 0x10C) 30 = false ∧
      min (fld (b.reg (pgDma 0) 0x10C) 8 6 + 1) 3 = 2 ∧ (∀ k, k < 8 → b.bankBusy 0 k = false) ∧
      (∀ i, i < 16 → b.syn (bankKey 0 i) = 0) ∧ b.dst 0 0 = DmaSt.reset ∧
      b.grants (arbB 0 0) 9 (bankKey 0 0) = true ∧ b.grants (arbB 0 0) 9 (bankKey 0 0x100) = true := by decide +kernel

theorem test_meets_DmaChannels_meets : ∀ i, (dma0 3 0x80000100).meetsA i = false := by
  have h : ∀ k, ((dma0 3 0x80000100).ab k).wrote = none := fun _ => rfl
  intro i
  unfold State.meetsA State.beforeA
  rw [h]
  split <;> rfl

/-- Cluster 0 with lock 3 in state `l` and SHMY of logical unit 0 in state `m`. -/
def shut (l : Lock) (m : ShMy) (x : UnitSt) : State :=
  (at0 x).setC 0 { Clu.reset with locks := [(3, l)], my := [(0, m)] }

theorem test_meets_ShutterLocks :
    let s := shut Lock.reset ShMy.reset unit0
    let w := shut { Lock.reset with holder := some 1 } ShMy.reset unit0
    let h := shut { Lock.reset with holder := some 0 } { ShMy.reset with granted := true, req := 3 } (withE eeS)
    let p := shut { Lock.reset with holder := some 1, wait := [0], rank := [0] } { ShMy.reset with pend := true, req := 3 } unit0
    let g := shut { Lock.reset with wait := [0], rank := [0] } { ShMy.reset with pend := true, req := 3 } unit0
    let f := shut { Lock.reset with freed := run.tim.cyc + 1 } ShMy.reset unit0
    let o := shut { Lock.reset with holder := some 1, rank := [0, 1], won := some ⟨run.tim.cyc, ShMy.reset, [0, 1], false, false⟩ }
      ShMy.reset unit0
    WriteReaches s (.unit 0) (pgShutter 0) ∧ s.logU 0 = 0 ∧ (∀ k, k < 64 → ((s.c 0).lk k).holder ≠ some 0) ∧
      ((s.c 0).shmy 0).pend = false ∧ ((s.c 0).lk 3).holder = none ∧ ((s.c 0).lk 3).wait = [] ∧
      s.physU 0 0 = 0 ∧ (s.u 0).stat ≠ .wfe ∧ ((w.c 0).lk 3).holder ≠ none ∧
      (∀ k, k < 64 → ((w.c 0).lk k).holder ≠ some 0) ∧ ((h.c 0).lk 3).holder = some 0 ∧
      (∀ k, k < 64 → 3 < k → ((h.c 0).lk k).holder ≠ some 0) ∧ ((h.c 0).lk 2).holder ≠ some 0 ∧ (h.u 0).ee = true ∧
      WriteReaches h (.unit 0) (pgShutter 0) ∧ ((p.c 0).shmy 0).pend = true ∧ s.cluUp 0 = true ∧
      ((g.c 0).lk 3).holder = none ∧ ((s.c 0).lk 3).freed ≠ s.tim.cyc + 1 ∧ s.outranks 0 3 0 = none ∧
      ((f.c 0).lk 3).freed = f.tim.cyc + 1 ∧ f.outranks 0 3 0 = none ∧ (o.outranks 0 3 0).isSome = true ∧
      p.nextHolder 0 3 ≠ some 0 ∧ ((g.c 0).lk 3).freed ≠ g.tim.cyc + 1 ∧
      ((h.c 0).shmy 0).req = 3 ∧ ((h.c 0).shmy 0).granted = true ∧
      (∀ k, k < 64 → 3 ≤ k → ((p.c 0).lk k).holder ≠ some 0) ∧
      ((g.c 0).lk 3).rank.find? (fun v => decide (v ∈ ((g.c 0).lk 3).wait)) = some 0 := by
  unfold WriteReaches; decide +kernel

/-- Cluster 0 with its march engine in state `m`. -/
def march0 (m : March) : State := run.setC 0 { Clu.reset with mt := m, clearing := [2] }

theorem test_meets_MarchAndClearing :
    let b : March := { March.reset with busy := true, banks := 1 }
    let s := march0 b
    let y := march0 { b with retry := true, yields := 16 }
    let d := march0 { b with chunk := 128 }
    (run.c 0).mt.busy = false ∧ s.cluUp 0 = true ∧ (s.c 0).mt.busy = true ∧ (s.c 0).mt.destr = false ∧
      (s.c 0).mt.retry = false ∧ (s.c 0).mt.chunk < 127 ∧ (∀ k, k ∈ chunkKeys 0 (s.c 0).mt → s.syn k = 0) ∧
      16 ≤ (y.c 0).mt.yields ∧ (y.c 0).mt.retry = true ∧ s.saf.por = false ∧ (d.c 0).mt.chunk = 128 ∧
      (d.c 0).clearing.head? = some 2 ∧ s.portFree (arbB 0 0) 19 = true ∧
      ({ s with arb := [(arbB 0 0, { Arb.reset with holder := some (9, 3) })] } : State).portFree (arbB 0 0) 19 = false ∧ 4 * 0 + 1 ∈ ({ run with rclear := [1] } : State).rclear := by decide +kernel

theorem test_meets_MarchAndClearing_nowait : NoWait (march0 March.reset) :=
  by unfold NoWait; decide +kernel

/-- A Negative slot that holds `l` and its check word. -/
def slotOf (l : List Word) : List Word := l ++ [crcWords l]

theorem test_meets_Takeovers_slot (l : List Word) (h : l.length = 255) :
    (slotOf l).length = 256 ∧ slotAt (slotOf l) 255 = crcWords ((slotOf l).take 255) := by
  refine ⟨by simp [slotOf, h], ?_⟩
  simp [slotOf, slotAt, ← h]

/-- Cluster 0 with one unit trigger, and with one Reel trigger. -/
def trig0 : State := (at0 unit0).setC 0 { Clu.reset with trig := [(0, 5, 0)], slots := [(0, slotOf (List.replicate 255 0))] }

theorem test_meets_Takeovers_clean : ∀ i, Tab.get 0 (trig0.c 0).slotSynd i = 0 := fun _ => rfl

def rtrig0 : State := (at0 unit0).setC 0 { Clu.reset with rtrig := [(0, 5, 0)] }

theorem test_meets_Takeovers :
    let t := trig0
    let v := reg1 (pgNeg 0) 0x080 0x40000000 t
    let b := reg1 (pgNeg 0) 0x044 0xC0000000 t
    let n := reg1 (pgNeg 0) 0x040 0 t
    WriteReaches (at0 unit0) .host (pgNeg 0) ∧ ((at0 unit0).c 0).urepl = none ∧ (at0 unit0).uphase 0 = 0 ∧
      ((at0 unit0).u 0).locked = false ∧ ((at0 unit0).c 0).trig = [] ∧ t.cluUp 0 = true ∧ (t.c 0).trig = [(0, 5, 0)] ∧
      t.rbit (pgNeg 0) 0x044 31 = false ∧ t.rbit (pgNeg 0) 0x040 31 = true ∧ fld (t.reg (pgNeg 0) 0x080) 30 2 = 0 ∧
      fld (v.reg (pgNeg 0) 0x080) 30 2 ≠ 0 ∧ b.rbit (pgNeg 0) 0x044 31 = true ∧ n.rbit (pgNeg 0) 0x040 31 = false ∧
      b.rbit (pgNeg 0) 0x044 30 = true ∧ (reg1 (pgNeg 0) 0x044 0x00400000 t).uphase 0 = 4 := by
  unfold WriteReaches; decide +kernel

theorem test_meets_Takeovers_reel :
    (rtrig0.c 0).rtrig = [(0, 5, 0)] ∧ rtrig0.rbit (pgNeg 0) 0x044 30 = false ∧
      rtrig0.rbit (pgNeg 0) 0x040 30 = true := by decide +kernel

theorem test_meets_CheckValueLatches :
    let s := reg1 (pgNeg 0) 0x200 0x80000000 (at0 { unit0 with stat := .ckpt 2 })
    (s.u 0).stat = .ckpt 2 ∧ bit (0x80000000 : Word) 31 = true ∧ fld (s.reg (pgNeg 0) 0x200) 24 3 = s.logU 0 ∧
      WriteReaches s .host (pgNeg 0) := by unfold WriteReaches; decide +kernel

theorem test_meets_ControlStorePages :
    let s := reg1 (pgCommon 0) 0x180 0x800 (at0 unit0)
    let e := reg1 (pgCommon 0) 0x180 0xC00 (at0 unit0)
    WriteReaches s .host (pgCommon 0) ∧ rankOf (s.dom 0) ≥ 2 ∧ s.rfld (pgCommon 0) 0x180 0 12 = 0x800 ∧ s.csBusy 0 = false ∧
      (s.c 0).csq = [] ∧ s.hasPower 0 0 = true ∧ s.csUnit 0 = some 0 ∧
      e.rfld (pgCommon 0) 0x180 0 12 = 0xC00 := by unfold WriteReaches; decide +kernel

theorem test_meets_ReelQueuePages :
    let s := reel0 Chan.reset
    let q := s.onR 0 fun x => x.setRx 0 [⟨5, 9, 0⟩]
    s.uphase 0 ≠ 4 ∧ WriteReaches s .host (pgReel 0) ∧ s.txLen 0 (s.owner 0 0) < s.cap 0 0 ∧
      q.rxSeen 0 (q.owner 0 0) = ⟨5, 9, 0⟩ :: [] ∧ s.rxSeen 0 (s.owner 0 0) = [] ∧ s.running 0 0 = true ∧
      (s.chan 0 0).inj = none ∧ s.running 0 1 = false ∧ (bit (0x101 : Word) 0 = true ∧ bit (0x101 : Word) 8 = true) ∧
      (∀ i, i ∈ joinGroup 1 → s.running 0 i = true → i = 0) := by unfold WriteReaches; decide +kernel

theorem test_meets_ReelPrograms :
    let s := { run with reels := [(0, { ReelSt.reset with held := false })] }
    let a := reg1 (pgRegion 0) 0x108 0x80000000 (reg1 (pgReel 0) 0x7CC 2 s)
    Tab.get 0 (s.r 0).pmSynd 0 = 0 ∧ s.uphase 0 ≠ 4 ∧ WriteReaches s .host (pgReel 0) ∧
      (reg1 (pgRegion 0) 0x100 5 s).reelT < (reg1 (pgRegion 0) 0x100 5 s).ssTarget 0 ∧ a.regUp 0 = true ∧
      a.rbit (pgRegion 0) 0x108 31 = true ∧ a.ssTarget 0 ≤ a.reelT ∧ a.reelUp 0 = true ∧
      (∀ i, i < 16 → (bit (a.reg (pgReel 0) 0x7CC) i = true ↔ i = 1)) ∧ a.running 0 1 = false ∧
      a.rbit (pgRegion 0) 0x108 29 = false ∧ Machine.sizeOf (a.rfld (pgReel 0) 0x084 12 3) = some 1 ∧
      (∀ i, i ∈ slotsOf 1 1 → a.slotBusy 0 i = false) := by unfold WriteReaches; decide +kernel

/-! ### Host window, watchdogs, Safelight and Developer -/

/-- `run` with the Safelight in state `x`. -/
def safe (x : Saf) : State := { run with saf := x }

theorem test_meets_Watchdogs :
    let s := reg1 (pgUnit 0) 0x2C8 5 (reg1 (pgUnit 0) 0x2C0 0x80000000 (at0 (unit0.setD fun d => { d with uwd := 3 })))
    let b := reg1 (pgUnit 0) 0x2C0 0x80000000 (at0 (unit0.setD fun d => { d with uwd := 0 }))
    let l := reg1 (pgUnit 0) 0x2C0 0xC0000000 (at0 unit0)
    let w := reg1 pgSafe 0x280 0x80000000 (reg1 pgSafe 0x284 5 (safe { run.saf with swd := 5 }))
    let z := reg1 pgSafe 0x280 0x80000000 (safe { run.saf with swd := 0 })
    SwdAtZero z ∧ ¬SwdAtZero w ∧ WriteReaches z .host pgSafe ∧ z.rbit pgSafe 0x280 30 = false ∧
      ({ z with saf := { z.saf with kick := true } } : State).saf.kick = true ∧
      WriteReaches s (.unit 0) (pgUnit 0) ∧ s.physPage (pgUnit 0) = pgUnit 0 ∧ s.rbit (pgUnit 0) 0x2C0 31 = true ∧
      s.unitUp 0 = true ∧ (s.u 0).locked = false ∧ (s.u 0).dbg.warned = false ∧ s.rfld (pgUnit 0) 0x2C8 0 24 = 5 ∧
      (s.u 0).dbg.uwd ≤ 5 ∧ (s.u 0).dbg.uwd ≠ 0 ∧ (s.u 0).mode ≠ 3 ∧ (b.u 0).dbg.uwd = 0 ∧ b.rfld (pgUnit 0) 0x2C8 0 24 = 0 ∧
      l.rbit (pgUnit 0) 0x2C0 30 = true ∧ s.rbit (pgUnit 0) 0x2C0 30 = false ∧
      (safe { run.saf with kick := true }).saf.kick = true ∧ run.saf.kick = false ∧ w.saf.por = false ∧
      w.rbit pgSafe 0x280 31 = true ∧ w.rbit pgSafe 0x280 30 = false ∧ w.started = true ∧ w.saf.swdWarned = false ∧
      w.rfld pgSafe 0x284 0 24 = 5 ∧ w.saf.swd = 5 ∧ z.saf.swd = 0 ∧
      (reg1 pgSafe 0x280 0x40000000 run).rbit pgSafe 0x280 30 = true := by unfold SwdAtZero WriteReaches; decide +kernel

theorem test_meets_SafelightEvents :
    let v := reg1 pgSafe 0x180 0x80100008 run
    let q := { v with saf := { v.saf with vrun := [(0, 3)] } }
    let e : LogE := ⟨1, 0, 0, 0, 0, 0, 0⟩
    let f := reg1 pgSafe 0x240 0x80000000 (safe { run.saf with written := 1 })
    run.saf.por = false ∧ run.rbit pgSafe 0x154 0 = false ∧ run.rbit pgSafe 0x184 31 = false ∧
      bit (run.reg pgSafe 0x180) 31 = false ∧ bit (v.reg pgSafe 0x180) 31 = true ∧ Tab.get 0 v.saf.vrun 0 < 3 ∧
      3 ≤ Tab.get 0 q.saf.vrun 0 ∧ run.clkRuns 1 = true ∧ run.saf.xtalDone = false ∧ run.saf.dvBusy = false ∧
      run.saf.upBusy = false ∧ run.saf.ksBusy = false ∧ run.lpState = 0 ∧ (safe { run.saf with intake := [] }).saf.intake = [] ∧
      (safe { run.saf with intake := [e] }).saf.intake = e :: [] ∧ f.rbit pgSafe 0x240 31 = true ∧ f.hostUp = true ∧
      f.saf.flight = none ∧ f.saf.flushed < f.saf.written ∧ f.rfld pgSafe 0x24C 0 16 = f.rfld pgSafe 0x250 0 16 ∧
      bit ((reg1 pgSafe 0x400 0x80000000 run).reg pgSafe 0x400) 31 = true ∧ (run.clkCount 1).isSome = true ∧
      run.clkCount 40 = none ∧ bit ((reg1 pgSafe 0x400 0xA0000000 run).reg pgSafe 0x400) 29 = true ∧
      (reg1 pgSafe 0x444 0x80000000 run).rbit pgSafe 0x444 31 = true ∧
      (reg1 pgSafe 0x444 0x80000000 run).rfld pgSafe 0x444 0 24 = 0 ∧ run.served (pgReel 0) = false ∧
      run.reaches .host (pgReel 0) = true ∧ run.served 0x00A = false ∧ kindOf 0x00A = none := by decide +kernel

theorem test_meets_Presence :
    (∀ m, m ∈ [Master.host, .unit 0] → (at0 unit0).reaches m 0x00A = true ∧ (at0 unit0).pageHeld m 0x00A = false) ∧
      (at0 unit0).served 0x00A = false ∧
      ({ run with pw := { run.pw with dom := [(265, 4)] } } : State).awake 265 = false ∧ run.awake 265 = true := by
  decide +kernel

theorem test_meets_NewWake : NewWake run := by unfold NewWake; decide +kernel

theorem test_meets_DeveloperCommands :
    let s := { run with dev := Dev.reset, saf := { run.saf with straps := 1 } }
    let k := { run with saf := { run.saf with otp := 2 ^ 384 } }
    let r := reg1 pgDev 0x040 0x60000000 run
    let j := { s with saf := { s.saf with straps := 12 } }
    (∀ p, p < 144 → (j.u p).stat = .held) ∧ (∀ r, r < 80 → (j.r r).held = true) ∧
      s.devReady = true ∧ j.devReady = true ∧ s.dev.due = true ∧ s.saf.por = false ∧ s.lou.low = false ∧ s.pw.coreOk = true ∧ s.saf.tmode = 0 ∧
      strapFault 1 = true ∧ strapFault j.saf.straps = false ∧ 2 ≤ fld j.saf.straps 2 2 ∧ s.life ≠ 2 ∧
      s.otpOnes 1544 8 ∈ [0, 4] ∧ s.otpOnes 1568 128 = s.otpOnes 1696 128 ∧
      ({ s with dev := { s.dev with pon := false } } : State).dev.pon = false ∧ run.started = true ∧
      run.saf.vpp = true ∧ run.saf.dvBusy = false ∧ run.saf.dv.left = [] ∧ run.saf.rc.left = [] ∧ r.saf.rcWait = [] ∧ run.dev.due = false ∧
      (safe { run.saf with vpp := false }).saf.vpp = false ∧ k.keyProg 1 = true ∧
      k.keyRevoked 1 = false ∧ (k.reg pgDev 0x064).toNat = 0 ∧ run.keyProg 0 = false ∧ run.life = 0 ∧
      r.recovering = true ∧ r.started = false ∧ r.segBusy 0 0 = false ∧ r.syn 0x800000 = 0 ∧ run.recovering = false ∧
      run.saf.rcBusy = false ∧ run.saf.repairs = [] ∧ r.checkImg r.stageImg 0x800000 true none ≠ 0 ∧
      WriteReaches r .host pgRec ∧ (safe { run.saf with otp := 0xFF * 2 ^ 1544 }).life = 2 := by
  unfold WriteReaches; decide +kernel

/-- Update slot A open for programming, with a header of magic and body length 0 in it. -/
def openA : State :=
  { run with dev := { run.dev with upOpen := true },
             saf := { run.saf with flash := [(0, 0x44), (1, 0x56), (2, 0x49), (3, 0x4D), (0x10, 0), (0x11, 0), (0x12, 0),
                                             (0x13, 0)] } }

theorem test_meets_UpdateAndKeyStore :
    let s := openA
    let c := reg1 pgDev 0x044 0x80000000 (reg1 pgDev 0x048 9 run)
    let img := s.slotImg s.dev.upTgt
    let base := s.slotBase s.dev.upTgt
    let z := s.slotSize
    let k : Key := ⟨[], true, true⟩
    let ks := safe { run.saf with keys := [(0, some k)] }
    WriteReaches s .host pgSafe ∧ s.saf.upBusy = false ∧ (∀ t, t < 2 → run.candidate t = false) ∧
      c.candidate 0 = true ∧ (c.reg pgSafe 0x508).toNat ≤ (c.reg pgDev 0x048).toNat ∧ s.dev.upOpen = true ∧
      s.rfld pgSafe 0x504 0 30 = 0 ∧ 0x10000 < z ∧ leNat (img 0 4) = 0x4D495644 ∧ leNat (img 0x10 4) = 0 ∧
      (∀ i, i < 0x40 → s.fl (base + z - 0x40 + i) = 0xFF) ∧ (∀ i, i < 256 → run.fl (base + i) = 0xFF) ∧
      run.dev.upOpen = false ∧ ks.key 0 = some k ∧ run.key 0 = none ∧ (∀ r, r < 4 → ks.regUp r = true) ∧
      fld (0x1 : Word) 0 3 = 1 ∧ (safe { run.saf with ksBusy := true, upBusy := true }).saf.ksBusy = true ∧
      run.saf.up.left = [] := by
  unfold WriteReaches; decide +kernel

/-! ### The Loupe -/

/-- `run` with the Loupe session in state `n`. -/
def sess (n : Nat) : State := reg1 pgLoupe 0x040 (w32 (n * 2 ^ 28)) (at0 unit0)

theorem test_meets_LoupeSession :
    let late : State := { sess 4 with tim := { Tim.reset with cyc := 10 * second } }
    let chal : State := { sess 1 with tim := { Tim.reset with cyc := 10 * second } }
    let fail : State := { sess 0 with lou := { Lou.reset with failT := 1 },
                                      saf := { run.saf with otp := 0xF * 2 ^ 1544 } }
    let k : Key := ⟨[], true, false⟩
    (sess 0).loupeOn = true ∧ (∀ n, n < 5 → (sess n).lpState = n) ∧ (sess 0).life = 0 ∧ fail.life = 1 ∧
      fail.tim.cyc + 1 < fail.lou.failT + second ∧ fail.lou.failT ≠ 0 ∧
      ({ fail with lou := Lou.reset } : State).lou.failT = 0 ∧
      (safe { run.saf with otp := 0xFF * 2 ^ 1544 }).life = 2 ∧ (sess 2).key 0 = none ∧
      ({ sess 2 with saf := { run.saf with keys := [(0, some k)] } } : State).key 0 = some k ∧
      (sess 3).lou.darkBanks = false ∧ (sess 3).secretBanks = [] ∧
      (reg1 (pgBanks 0) 0x0A0 1 (sess 3)).secretBanks ≠ [] ∧ late.lpState = 4 ∧ late.lou.lastT + 10 * second ≤ late.tim.cyc ∧
      chal.lpState = 1 ∧ (sess 4).tim.cyc < (sess 4).lou.lastT + 10 * second := by decide +kernel

theorem test_meets_LoupeFrames :
    let f : State := { sess 4 with lou := { Lou.reset with frame := some [] } }
    let m := at0 ((withE mS).setD fun d => { d with inbox := some 5, outbox := some 6 })
    let b := { reg1 pgLoupe 0x040 0x40000000 m with lou := Lou.reset }
    FramesAlone (sess 4) ∧ FramesAlone b ∧ f.inFrame = true ∧ (sess 4).inFrame = false ∧ (sess 4).lou.low = false ∧
      ({ run with lou := { Lou.reset with low := true } } : State).lou.low = true ∧ rdCrc 1 0 ≠ rdCrc 1 1 ∧
      loupeReg 0x0B0 = false ∧ (sess 4).loupeOn = true ∧ (sess 4).resetTarget 0 = 0 ∧ (sess 4).unitUp 0 = true ∧
      ((sess 4).u 0).mode ≠ 3 ∧ (b.u 0).mode = 3 ∧ b.lpState = 4 ∧ (sess 4).unitUp 1 = false ∧
      (sess 4).rfld pgLoupe 0x104 0 8 ≤ 143 ∧ ((sess 4).u 0).dbg.inbox = none ∧ (b.u 0).dbg.inbox = some 5 ∧
      143 < (reg1 pgLoupe 0x104 200 (sess 4)).rfld pgLoupe 0x104 0 8 ∧
      (reg1 pgLoupe 0x104 1 (sess 4)).unitUp (reg1 pgLoupe 0x104 1 (sess 4)).lpUnit = false ∧
      m.reaches (.unit 0) (pgUnit 0) = true ∧ m.served (pgUnit 0) = true ∧ m.physPage (pgUnit 0) = pgUnit 0 ∧ m.pageBusy (pgUnit 0) = false ∧
      (m.u 0).dbg.outbox = some 6 ∧ ((at0 (withE mS)).u 0).dbg.outbox = none := by
  refine ⟨⟨by decide +kernel, fun q h => ?_⟩, ⟨by decide +kernel, fun q h => ?_⟩, ?_⟩
  · cases (show q ∈ ([] : List PgReq) from h)
  · cases (show q ∈ ([] : List PgReq) from h)
  · decide +kernel

/-- Records of a write of this cycle meet the clauses of the boxes (R375): of an empty box, and of a full one. -/
theorem test_meets_LoupeFrames_boxes :
    let d (w : Option BoxW) : State := { sess 4 with units := [(0, unit0.setD fun d => { d with inW := w, outW := w })] }
    let m (w : Option BoxW) : State := at0 ((withE mS).setD fun d => { d with inbox := some 5, outbox := some 6, inW := w })
    FirstWrite (sess 4) none ∧ FirstWrite run (some ⟨7, none⟩) ∧ (d (some ⟨(sess 4).tim.cyc, none⟩)).unitUp 0 = true ∧
      ((d (some ⟨(sess 4).tim.cyc, none⟩)).u 0).dbg.outW = some ⟨(d none).tim.cyc, none⟩ ∧
      (((m (some ⟨0, some (1, true)⟩)).u 0).dbg.inW = some ⟨(m none).tim.cyc, some (1, true)⟩ ∧ ((m none).u 0).mode = 3) := by
  refine ⟨fun q h => (by cases h), fun q h => ?_, by decide +kernel⟩
  cases h
  decide

/-! ### Power, resets and die links -/

/-- `at0 x` with the power state `p`. -/
def pw (x : UnitSt) (p : Pw) : State := { at0 x with pw := p }

theorem test_meets_PowerTransitions :
    let s := at0 unit0
    let g (d : Nat) := reg1 pgPower 0x040 (w32 d) s
    let off := pw unit0 { Pw.reset with steps := [⟨0, 4⟩], go := true, busy := true }
    let nap := pw unit0 { Pw.reset with steps := [⟨0, 2⟩] }
    let wake := pw unit0 { Pw.reset with steps := [⟨0, 0⟩], dom := [(0, 2)] }
    let up := pw unit0 { Pw.reset with steps := [⟨0, 0⟩], dom := [(0, 4)], acked := true }
    let held := reg1 pgPower 0x04C 1 (at0 (UnitSt.reset 0))
    (g 0).goOk 0 4 = true ∧ (g 0).stepsTo 0 4 ≠ [] ∧ (g 0).stepsTo 0 0 = [] ∧ (g 265).goOk 265 4 = false ∧
      s.awake 224 = true ∧ off.awake 0 = true ∧ off.pw.steps = [⟨0, 4⟩] ∧ off.pw.rst = [] ∧ off.pw.wait = [] ∧
      off.pw.wake = [] ∧ off.levelRegions = [] ∧ (266 ≤ 267 ∧ run.linkUsed 1 = false) ∧ nap.awake 0 = true ∧ nap.clean 0 = true ∧ wake.dom 0 = 2 ∧ bit wake.pw.ckack 0 = true ∧
      (wake.u 0).stat ≠ .held ∧ up.dom 0 = 4 ∧ up.pw.acked = true ∧ up.started = true ∧ up.cluUp 0 = true ∧
      up.wakeHeld 0 = false ∧ up.holds 4 0 = false ∧ rankOf (s.dom 0) ≥ 3 ∧
      (pw unit0 { Pw.reset with dom := [(0, 4)] }).dom 0 = 4 ∧ (Pw.reset.acked = false) ∧
      up.stepReady ⟨0, 0⟩ = true ∧ ({ up with pw := { up.pw with acked := false } } : State).stepReady ⟨0, 0⟩ = false ∧
      held.rbit pgPower 0x04C 0 = true ∧ (0 : Nat) ∉ held.pw.wake ∧ held.started = true ∧ held.cluUp 0 = true ∧
      held.holds 4 0 = false ∧ held.awake 0 = true ∧ (held.u 0).stat = .held ∧ (held.u 0).locked = false ∧
      (pw unit0 { Pw.reset with pcreq := true }).pw.pcreq = true ∧ s.pw.pcreq = false ∧ s.pw.coreOk = true ∧
      s.awake 244 = true ∧ (safe { run.saf with por := true }).saf.por = true ∧
      (pw unit0 { Pw.reset with coreOk := false }).pw.coreOk = false := by decide +kernel

theorem test_meets_ResetRequests :
    let s := at0 { unit0 with locked := true }
    let b := pw unit0 { Pw.reset with steps := [⟨0, 4⟩] }
    let h := { at0 (UnitSt.reset 0) with pw := { Pw.reset with held := [.unit 0] } }
    let r := pw unit0 { Pw.reset with held := [.reel 0] }
    2 ≤ rankOf (s.dom 224) ∧ rankOf ((pw unit0 { Pw.reset with dom := [(224, 3)] }).dom 224) ≤ 1 ∧
      ScopeFree s 2 0 ∧ ScopeFree s 3 0 ∧ ScopeFree s 4 0 ∧ ScopeFree s 5 0 ∧ ¬ScopeFree b 2 0 ∧ ¬ScopeFree b 3 0 ∧
      ¬ScopeFree b 4 0 ∧ s.awake 240 = true ∧ s.awake 224 = true ∧ s.awake 0 = true ∧ s.resetTarget 0 = 0 ∧
      (pw unit0 { Pw.reset with dom := [(0, 4)] }).awake 0 = false ∧ s.awake 144 = true ∧ s.physR 0 = 0 ∧
      Scope.unit 0 ∈ h.pw.held ∧ h.started = true ∧ h.cluUp 0 = true ∧ h.wakeHeld 0 = false ∧ h.awake 0 = true ∧
      (h.u 0).stat = .held ∧ (h.u 0).locked = false ∧ Scope.reel 0 ∈ r.pw.held ∧ r.cluUp 0 = true ∧
      r.wakeHeld 0 = false ∧ r.awake 144 = true ∧ (r.c 0).rrepl ≠ some 0 ∧ Scope.unit 1 ∉ h.pw.held := by
  unfold ScopeFree; decide +kernel

theorem test_meets_DieLinks_waits :
    let f : Flit := ⟨0, 0, 0, 0, 0xFF, 0, 0⟩
    let b := { die1 with arb := [(arbM 0, { Arb.reset with holder := some (0x29, 3) })] }
    b.regUp 0 = true ∧ b.farFree 0 f = false ∧ die1.farFree 0 f = true ∧ flitSrc 1 ≠ f.src ∧ die1.tim.stepPend = false ∧
      AtEdge { die1 with tim := { die1.tim with phase := 7 } } := by
  unfold AtEdge; decide +kernel

theorem test_meets_DieLinks :
    let d := { die1 with links := [], pw := { Pw.reset with dom := [(266, 0)] } }
    let j : Job := ⟨.load, 0x40000000, 2, 0, 0, 4, false, .reg 1 false⟩
    let o := { die1 with links := [(0, { Link.reset with up := true, out := [(0, 1)] })],
                         units := [(0, { withE eeS with stat := .die j 0 })] }
    d.linkReady 0 = true ∧ (d.l 0).up = false ∧ d.linkReady 1 = false ∧ (die1.l 0).up = true ∧ (die1.l 0).out = [] ∧
      (o.l 0).out = [(0, 1)] ∧ (o.u 0).stat = .die j 0 ∧ (o.u 0).micro = none ∧ (o.u 0).ee = true ∧ (o.l 0).up = true ∧
      die1.follower = true ∧ die1.portTo die1.masterDie = 0 ∧ die1.awake 263 = true ∧ die1.awake 244 = true ∧
      RegionAnswers die1 0 0 0 ∧ (die1.l 0).wait = [] ∧ (∀ q, q ∈ (die1.l 0).out → q.1 ≠ 5) ∧ Unwatched o 0 27 j.va 0 ∧
      ({ die1 with pw := { Pw.reset with dom := [(240, 4)] } } : State).regUp 0 = false := by
  refine ⟨?_, ?_, ?_, ?_, ?_, ?_, ?_, ?_, ?_, ?_, ?_, ?_, ?_, ?_, ?_, ?_, ?_, rfl, ?_⟩
  iterate 14 decide +kernel
  · unfold RegionAnswers; decide +kernel
  iterate 3 decide +kernel

/-! ### Pages, memory code, encodings, the step -/

theorem test_meets_PageHeader :
    let l := reg1 pgClocks pgCtl 0x80000000 run
    kindOf pgClocks = some (.clocks, 0) ∧ WriteReaches run .host pgClocks ∧ PlainReset .clocks ∧
      rowAt .clocks 0x040 ≠ none ∧ rowAt .clocks 0x7FC = none ∧ l.rbit (l.physPage pgClocks) pgCtl 31 = true ∧
      l.reaches .host pgClocks = true ∧ l.served pgClocks = true ∧ lockedReg .clocks pgEn = true ∧ l.pageHeld .host pgClocks = false ∧
      l.storeBusy pgClocks pgEn = false ∧ run.served (pgReel 0) = false ∧ run.hostBusy = false ∧
      ({ run with pgs := { run.pgs with host := [⟨.host, 6, 0, none, false, none⟩] } } : State).hostBusy = true ∧
      ({ run with pgs := { run.pgs with wait := [⟨.mgmt, 6, 0, none, false, none⟩] } } : State).pageBusy 6 = true := by
  unfold WriteReaches PlainReset; decide +kernel

theorem test_meets_MemoryCode :
    hCols[0]? ≠ none ∧ (∃ b, b < 256 ∧ synClass (BitVec.ofNat 8 b) = .unc) ∧ synClass 1 = .corr ∧
      ((run.setSyn 0 3).syn 0 = 3) ∧ synClass 3 = .unc := by
  refine ⟨?_, ⟨3, ?_⟩, ?_, ?_, ?_⟩ <;> decide +kernel

theorem test_meets_Encodings :
    encOf (.add 0 (.c 1 2)) = some (0, encReg 1 1 0x01 0 (.c 1 2)) ∧ wellFormed (.add 0 (.c 1 2)) = true ∧
      bit (0 : Half) 15 = false ∧ bit (0x80000000 : Word) 31 = true ∧ reelNopWf 0 = true := by
  decide +kernel

theorem test_meets_StepIsExec :
    (run.pending = []) ∧ run.saf.por = false ∧ (safe { run.saf with por := true }).saf.por = true ∧
      (safe { run.saf with por := true }).pending = [] ∧ (safe { run.saf with por := true, pgood := false }).saf.pgood = false ∧
      (safe { run.saf with por := true, pgood := true }).saf.pgood = true := by decide +kernel

theorem test_meets_MemoryStaysCanonical :
    Memory.wf State.reset = true ∧ completes (step { run with pending := [.pcslpreq] }) = true := by decide +kernel

/-! ### One step of a command, with results worked out by hand from the rules -/

/-- `s` with the halfwords of an instruction of unit 0 in its fetch queue. -/
def feed (i : Instr) (s : State) : State :=
  match encOf i with
  | some (_, e) => s.onU 0 fun x => withQ x e
  | none => s

/-- Unit 0 after a command from a state. -/
def then0 (i : Instr) (s : State) : UnitSt := (after s (exec i (feed i s))).u 0

/-- Unit 0 with g1 and g2. -/
def two (a b : Word) : State := at0 ((unit0.setG 1 a).setG 2 b)

/-- N, Z, C, V of unit 0 as a number, N lowest (R43). -/
def flags (x : UnitSt) : Nat := x.spr.estat.toNat % 16

-- R87, R89, with the worked example of flag results at the edges.
theorem test_add_wraps :
    let x := then0 (.add 0 (.c 1 2)) (two 0xFFFFFFFF 1)
    x.gr 1 = 0 ∧ flags x = 0b0110 ∧ x.pc = 2 := by decide +kernel
theorem test_add_overflow : flags (then0 (.add 0 (.c 1 2)) (two 0x7FFFFFFF 1)) = 0b1001 := by decide +kernel
theorem test_sub_borrow :
    let x := then0 (.sub 0 (.c 1 2)) (two 1 2)
    x.gr 1 = 0xFFFFFFFF ∧ flags x = 0b0001 := by decide +kernel
theorem test_sub_overflow : flags (then0 (.sub 0 (.r ⟨1, 2, 0, 1⟩)) (two 0x80000000 1)) = 0b1100 := by decide +kernel
theorem test_sub_zero : flags (then0 (.sub 0 (.c 1 2)) (two 0 1)) = 0b0001 := by decide +kernel
theorem test_adc_carry :
    ((then0 (.adc 0 ⟨1, 2, 0, 3⟩) (at0 (((withE 0x44004).setG 1 5).setG 2 6))).gr 3) = 12 := by decide +kernel
theorem test_sbc_borrow :
    ((then0 (.sbc 0 ⟨1, 2, 0, 3⟩) (two 5 6)).gr 3) = 0xFFFFFFFE := by decide +kernel
theorem test_neg_most_negative :
    let x := then0 (.neg 0 (.c 1 2)) (two 0 0x80000000)
    x.gr 1 = 0x80000000 ∧ flags x = 0b1001 := by decide +kernel
theorem test_addi_sign : (then0 (.addi 0 (.c 1 0x7F)) (two 5 0)).gr 1 = 4 := by decide +kernel
theorem test_andn : (then0 (.andn 0 ⟨1, 2, 0, 3⟩) (two 0xFF 0x0F)).gr 3 = 0xF0 := by decide +kernel
theorem test_slt : (then0 (.slt 0 ⟨1, 2, 0, 3⟩) (two 0xFFFFFFFF 0)).gr 3 = 1 := by decide +kernel
theorem test_sltu : (then0 (.sltu 0 ⟨1, 2, 0, 3⟩) (two 0xFFFFFFFF 0)).gr 3 = 0 := by decide +kernel
theorem test_lui : (then0 (.lui 0 1 0xABCDE) (two 0 0)).gr 1 = 0xABCDE000 := by decide +kernel
theorem test_sar : (then0 (.sar 0 (.cs 1 4)) (two 0x80000000 0)).gr 1 = 0xF8000000 := by decide +kernel
-- The worked example of R90.
theorem test_shift_32 :
    (then0 (.shr 0 (.c 1 2)) (two 0x80000010 0x120)).gr 1 = 0 ∧
      (then0 (.sar 0 (.c 1 2)) (two 0x80000010 0x120)).gr 1 = 0xFFFFFFFF := by decide +kernel
theorem test_ror : (then0 (.ror 0 (.c 1 2)) (two 1 33)).gr 1 = 0x80000000 := by decide +kernel

-- R91: products; R92: the corners of division.
theorem test_mul_pending :
    let x := then0 (.mul 0 (.c 1 2)) (two 0xFFFFFFFF 2)
    x.prods.length = 1 ∧ x.gr 1 = 0xFFFFFFFF := by decide +kernel
-- The worked example of R92.
theorem test_divide_zero :
    let x := then0 (.divideComplete 0) (at0 { unit0 with stat := .divide 2 3 0xFFFFFF9C 0 0 })
    x.gr 3 = 0x80000000 ∧ bit x.spr.estat 4 = true := by decide +kernel
theorem test_divide :
    (then0 (.divideComplete 0) (at0 { unit0 with stat := .divide 2 3 0xFFFFFFF9 2 0 })).gr 3 = 0xFFFFFFFD ∧
      (then0 (.divideComplete 0) (at0 { unit0 with stat := .divide 4 3 0xFFFFFFF9 2 0 })).gr 3 = 0xFFFFFFFF := by
  decide +kernel

-- R93, R94: loads extend, stores touch their bytes.
theorem test_lb_extends : (then0 (.lb 0 ⟨2, 1, 0⟩) ((at0 memU).setLE 0x100 0x80 1)).gr 1 = 0xFFFFFF80 := by
  decide +kernel
theorem test_lbu : (then0 (.lbu 0 (.c 1 2 0)) ((at0 memU).setLE 0x100 0x80 1)).gr 1 = 0x80 := by decide +kernel
theorem test_sh_bytes :
    let s := ((at0 memU).setLE 0x100 0xAABBCCDD 4)
    (after s (exec (.sh 0 (.c 1 2 1)) (feed (.sh 0 (.c 1 2 1)) s))).leN 0x100 4 = 0x0005CCDD := by decide +kernel
theorem test_push :
    let s := at0 memU
    let t := after s (exec (.push 0 1 0) (feed (.push 0 1 0) s))
    t.leN 0x7C 4 = 5 ∧ (t.u 0).spr.dsp = 0x7C := by decide +kernel
theorem test_amoadd :
    let s := (at0 memU).setLE 0x100 0xFFFFFFFF 4
    let t := after s (exec (.amoadd 0 (.c 1 2 0)) (feed (.amoadd 0 (.c 1 2 0)) s))
    t.leN 0x100 4 = 4 ∧ (t.u 0).gr 1 = 0xFFFFFFFF := by decide +kernel

-- R99, R100: branches are relative to the branch; a call pushes the address after it.
theorem test_branch_back : (then0 (.bCond 0 (.c 1 0x7F)) (at0 { withE 0x44002 with pc := 0x40 })).pc = 0x3E := by
  decide +kernel
theorem test_call : (then0 (.call 0 (.c 4)) (at0 { unit0 with pc := 0x40 })).spr.rs = [0x42] := by decide +kernel
theorem test_loop_end :
    let x := then0 (.mov 0 1 2) (at0 ({ unit0 with pc := 0x40 }.setS fun r => { r with ls := 0x20, le := 0x40, lc := 2 }))
    x.pc = 0x20 ∧ x.spr.lc = 1 := by decide +kernel

-- R109, R135: a trap with EE = 1 enters S mode at EBASE with EPC after the trap.
theorem test_trap :
    let x := then0 (.trap 0 (.c 0 9)) (at0 { (withE 0x42000).setS (fun r => { r with ebase := 0x200 }) with pc := 0x40 })
    x.pc = 0x200 ∧ x.mode = 1 ∧ x.ee = false ∧ x.spr.epc = 0x42 ∧ x.spr.pmode = 0 ∧ x.spr.info = 9 := by decide +kernel
theorem test_user_wfe_runs : (then0 (.wfe 0 (.c 0 0)) (at0 { withE uS with evt := true })).evt = false := by
  decide +kernel

-- The worked examples of the encodings (R65 to R80, R168), as the words reach decode.
theorem test_encoding_lw : decodeUnit 0 (.w32 0x1FFFA118) = .lw 0 (.m ⟨3, 17, 0x7FF8⟩) := by decide +kernel
theorem test_encoding_lw16 : decodeUnit 0 (.c16 0x312C) = .lw 0 (.c 2 5 4) := by decide +kernel
theorem test_encoding_cx :
    decodeUnit 0 (.w32 0xA556E696) = .customerInstruction 0 ⟨13, 0xA556, 9, 2⟩ := by decide +kernel
theorem test_illop : (then0 (.add 0 (.r ⟨0, 0, 2, 0⟩)) (at0 { withE eeS with pc := 0x40 })).spr.cause = 0x102 := by
  decide +kernel
theorem test_encoding_waitpin : decodeReel 0 0 0x5E010000 = .waitpin 0 0 ⟨1, 2, 0, 0, 1, 0⟩ := by decide +kernel
theorem test_encoding_jmp : fld (0x712001A4 : Word) 27 5 = 0x0E ∧ fld (0x712001A4 : Word) 21 5 = 9 ∧ (riOf 0x712001A4).imm = 0x1A4 := by
  decide +kernel

-- R166 to R173: Reel instructions on slot 0.
theorem test_ldhi :
    let s := injected (0x02, ⟨0, 0, 7, 0, 0, 0x1234⟩)
    ((after s (exec (.ldhi 0 0 ⟨0, 0, 7, 0, 0, 0x1234⟩) s)).r 0).held = false := by decide +kernel
theorem test_reel_stop :
    let s := injected (0x17, f0)
    (after s (exec (.stop 0 0 f0) s)).running 0 0 = false := by decide +kernel

-- R105, R12: the check value of CRC-32C, of the bytes "123456789".
theorem test_crc32c : crc32c [0x31, 0x32, 0x33, 0x34, 0x35, 0x36, 0x37, 0x38, 0x39] = 0xE3069283 := by decide +kernel

-- R421: PGIRQ_TEST raises the flags that the page has.
theorem test_pgirq : (after run (exec (.pgirqTest .host 6 1) run)).rbit pgPower pgRaw 0 = true := by decide +kernel
theorem test_spurious : exec .pcack run = .fault .uninvitedPcack := rfl

-- The worked example of R227.
theorem test_secded :
    secded 3 = 0x0C ∧ secded 1 ^^^ 0x0C = 0x0B ∧ fixWord 1 0x0B = 3 ∧ synClass (BitVec.ofNat 8 (secded 0 ^^^ 0x0C)) = .unc := by
  decide +kernel

-- The worked example of the locks: unit 3 holds lock 9 and asks for lock 5.
theorem test_lock_order :
    let s := { run with units := [(3, withE eeS)],
                        clus := [(0, { Clu.reset with locks := [(9, { Lock.reset with holder := some 3 })] })] }
    ((after s (exec (.shacq (.unit 3) 0 5) s)).u 3).spr.info = 0x00000905 := by decide +kernel

-- The worked example of R422: a write of a locked page.
theorem test_lockerr :
    let s := { reg1 (pgUnit 120) pgCtl 0x80000000 run with units := [(120, unit0)] }
    let t := after s (exec (.registerWrite (.unit 120) 0x278 0x103 5) s)
    t.reg (pgUnit 120) lockErr = 0x040C0001 := by decide +kernel

-- The worked example of R33: STRAP_PAR covers odd groups.
theorem test_straps :
    strapFault (BitVec.ofNat 13 (5 * 512 + 2 * 128 + 3 * 16 + 1 * 4 + 3)) = false ∧
      strapFault (BitVec.ofNat 13 (5 * 512 + 2 * 128 + 3 * 16 + 1 * 4 + 2)) = true := by decide +kernel

-- The worked example of TBSLEW: 2,500 steps of half a ns.
theorem test_slew :
    let s := reg1 pgTime 0x054 0xFFFFFB1E run
    (after s (exec (.slew .host 0x40000000) s)).tim.slew = -2500 := by decide +kernel

-- R345, R394: status outputs of a running image, and PCSLPACK with every switched domain OFF.
theorem test_status : run.status = 0x80 := by decide +kernel
theorem test_pcslpack :
    run.pcSlpAck = false ∧ ({ run with pw := { run.pw with dom := allOff } }).pcSlpAck = true := by decide +kernel

-- R418: two accesses reach a page in one fabric cycle, and the page takes the second in the next cycle.
theorem test_page_cycle :
    let s := after run (exec (.pgirqTest .host 6 1) run)
    kindOf 6 = some (.power, 0) ∧ s.reaches .host 6 = true ∧ s.pageBusy 6 = true ∧
      (after s (exec (.registerWrite .host 6 5 1) s)).pgs.wait = [⟨.host, 6, 0x014, some 1, false, none⟩] := by
  decide +kernel

end Sys2Proof.Tests
end

/-! What a lockup leaves of its unit, and writes of ESTAT in U mode (R47, R147). -/

namespace Sys2Proof.Machine

open Sys2Proof.Claims

variable (s : State)

/-! ### Units under lockup (R147, R148) -/

/-- A sequence of actions that each leave unit `q` leaves it. -/
theorem State.each_u {ι : Type} (l : List ι) (f : ι → State → State) (q : Nat) (h : ∀ i t, (f i t).u q = t.u q) :
    (each l f s).u q = s.u q := by
  induction l generalizing s with
  | nil => rfl
  | cons i l ih => rw [each_cons, ih, h]

@[simp] theorem State.withdraw_u (p q : Nat) : (s.withdraw p).u q = s.u q := State.each_u _ _ _ _ fun _ _ => rfl

@[simp] theorem State.logEv_u (code q : Nat) (coord d0 d1 : Word) : (s.logEv code coord d0 d1).u q = s.u q := by
  unfold State.logEv
  simp only
  split <;> rfl

@[simp] theorem State.abandonAll_u (c u q : Nat) : (s.abandonAll c u).u q = s.u q := by
  unfold State.abandonAll State.abandonLocks
  simp only
  split
  · rfl
  · rw [State.logEv_u]; rfl

@[simp] theorem State.trigger_u (p code q : Nat) : (s.trigger p code).u q = s.u q := by
  unfold State.trigger
  simp only
  split <;> rfl

/-- An action taken under a condition leaves a unit that the action leaves. -/
theorem State.ite_u {c : Prop} [Decidable c] {s t : State} {q : Nat} (h : t.u q = s.u q) :
    (if c then t else s).u q = s.u q := by
  split
  · exact h
  · rfl

/-- A stopped unit is locked with nothing in progress and keeps its registers. -/
theorem State.stopUnit_u (p code sub : Nat) (epc info bad : Word) (nested : Bool) :
    (s.stopUnit p code sub epc info bad nested).u p =
      { s.u p with locked := true, stat := .run, micro := none, hq := [], hwOld := [] } := by
  unfold State.stopUnit
  extract_lets lk withdrawn stopped recorded flagged released abandoned
  calc (abandoned.logEv 0x10 (abandoned.coord p) lk epc).u p
    _ = abandoned.u p := State.logEv_u ..
    _ = released.u p := State.ite_u (State.abandonAll_u ..)
    _ = flagged.u p := State.ite_u (State.u_setBit ..)
    _ = recorded.u p := State.u_flag ..
    _ = stopped.u p := by subst recorded; iterate 4 rw [State.u_setReg]
    _ = _ := by rw [State.u_onU, if_pos rfl, State.withdraw_u, State.dropMicro_u]

/-- With EE = 0 a synchronous cause other than ECC_UNCORR is a lockup (R146). -/
theorem State.raise_lockup_u (p code sub : Nat) (epc info bad : Word) (he : (s.u p).ee = false) (hc : code ≠ 0x10) :
    (s.raise p code sub epc info bad).u p =
      { s.u p with locked := true, stat := .run, micro := none, hq := [], hwOld := [] } := by
  simp only [State.raise, hc, false_and, if_false, he, Bool.false_eq_true, State.lockup, State.trigger_u,
    State.stopUnit_u]

/-! ### ESTAT in U mode (R47) -/

/-- The fields that R47 lets U mode write: N, Z, C, V, DZ, LATE, DZE and OVE. -/
theorem bit_estatUser {i : Nat} (hi : i < 32) : bit estatUser i = decide (i ∈ [0, 1, 2, 3, 4, 9, 10, 11]) := by
  revert i; decide

/-- The mask of the comparison holds PMODE, PEE, MODE, EE and RSE. -/
theorem bit_guardMask {i : Nat} (hi : i < 32) : bit (0x000EF000 : Word) i = decide (i ∈ guardedBits) := by
  revert i; decide

theorem lt_of_mem_guardedBits {i : Nat} (h : i ∈ guardedBits) : i < 32 := by
  revert i; decide

/-- Two words agree under the mask of the comparison when they agree in each guarded bit. -/
theorem guardMask_zero_iff (old v : Word) :
    (old ^^^ v) &&& 0x000EF000 = 0 ↔ ∀ i ∈ guardedBits, bit v i = bit old i := by
  have key : ∀ i < 32, bit ((old ^^^ v) &&& 0x000EF000) i =
      ((bit old i ^^ bit v i) && decide (i ∈ guardedBits)) := by
    intro i hi
    rw [← bit_guardMask hi]
    simp [bit]
  constructor
  · intro h i hi
    have hxor := key i (lt_of_mem_guardedBits hi)
    rw [h, decide_eq_true hi, Bool.and_true] at hxor
    exact (bne_eq_false_iff_eq.mp (hxor.symm.trans BitVec.getLsbD_zero)).symm
  · intro h
    refine BitVec.eq_of_getLsbD_eq fun i hi => ?_
    refine (key i hi).trans (Eq.trans ?_ BitVec.getLsbD_zero.symm)
    by_cases hg : i ∈ guardedBits
    · simp [h i hg]
    · simp [hg]

/-- The check of an ESTAT value in U mode: PRIV when a guarded bit differs, and no other refusal. -/
theorem estatCheck_user (old v : Word) :
    estatCheck 0 old v = if ∀ i ∈ guardedBits, bit v i = bit old i then 0 else 2 := by
  simp only [← guardMask_zero_iff]
  rfl

/-- A write of ESTAT in U mode reaches the flag fields alone. -/
theorem Spr.bit_put_estat_user (r : Spr) (v : Word) (hm : r.mode = 0) {i : Nat} (hi : i < 32) :
    bit (r.put 9 v).estat i = if i ∈ [0, 1, 2, 3, 4, 9, 10, 11] then bit v i else bit r.estat i := by
  have hput : (r.put 9 v).estat = (r.estat &&& ~~~estatUser) ||| (v &&& estatUser) := by
    simp only [Spr.put, hm, if_true]
  have hbit : bit (r.put 9 v).estat i = ((bit r.estat i && !bit estatUser i) || (bit v i && bit estatUser i)) := by
    rw [hput]; simp [bit, hi]
  rw [hbit, bit_estatUser hi]
  by_cases h : i ∈ [0, 1, 2, 3, 4, 9, 10, 11]
  · simp [h]
  · simp [h]

/-- A unit that is ready waits for nothing. -/
theorem State.stat_of_ready {p : Nat} (h : s.ready p = true) : (s.u p).stat = .run := by
  simp only [State.ready, Bool.and_eq_true, decide_eq_true_eq] at h
  obtain ⟨⟨⟨-, hrun⟩, -⟩, -⟩ := h
  exact hrun

/-- An MTS to ESTAT that issues in U mode writes the value when it agrees in the guarded bits, and raises PRIV
otherwise. -/
theorem execMts_estat_user {p : UnitIx} {f : SprForm} (hb : sprBad f = false) (hn : (sprOps f).1 = 9)
    (hm : (s.u p.val).mode = 0) (hi : Issues s p (encSpr 1 1 f)) :
    exec (.mts p f) s = .next
      (if ∀ i ∈ guardedBits, bit ((s.u p.val).gr (sprOps f).2) i = bit (s.u p.val).spr.estat i then
        s.mts p.val (encSpr 1 1 f) 9 ((s.u p.val).gr (sprOps f).2)
      else s.cause p.val (encSpr 1 1 f) 0x03) := by
  obtain ⟨hr, hf, hw⟩ := hi
  show execMts p f s = _
  simp only [execMts]
  rw [State.issue_runs s p.val hr hf hw (by simp [hb, hn]) rfl]
  simp only [hn, if_true, hm, estatCheck_user]
  by_cases h : ∀ i ∈ guardedBits, bit ((s.u p.val).gr (sprOps f).2) i = bit (s.u p.val).spr.estat i
  · simp only [if_pos h]
  · simp only [if_neg h]

/-- A write of ESTAT completes sequentially: no other unit and no general register changes, and the loop-end step leaves
ESTAT as written. -/
theorem State.mts_estat_spec (p : Nat) (e : Enc) (v : Word) (hs : (s.u p).stat = .run) :
    OnlyUnit s (s.mts p e 9 v) p ∧ (∀ k, ((s.mts p e 9 v).u p).gr k = (s.u p).gr k) ∧
      ((s.mts p e 9 v).u p).spr.estat = ((s.u p).spr.put 9 v).estat := by
  have hmts : s.mts p e 9 v = (s.onU p fun x => x.setS fun r => r.put 9 v).seq p e.len := rfl
  obtain ⟨hframe, -, hg, -, hspr⟩ :=
    State.seq_spec s p (fun x => x.setS fun r => r.put 9 v) e.len hs rfl ⟨rfl, rfl, rfl⟩
  rw [hmts]
  refine ⟨hframe, fun k => ?_, ?_⟩
  · unfold UnitSt.gr; rw [hg]; rfl
  · rw [hspr]; rfl

end Sys2Proof.Machine

namespace Sys2Proof.Claims

open Sys2Proof.Machine

/-- Settles O55: the comparison of R47 decides between the masked write and PRIV, and EE decides how PRIV is taken. -/
theorem userStatusWrites : Obligations.UserStatusWrites := by
  unfold Obligations.UserStatusWrites
  intro s p f v old hb hn hm hi
  have hexec := execMts_estat_user s hb hn hm hi
  refine ⟨fun hagree => ?_, fun i hg hdiff => ?_⟩
  · rw [if_pos hagree] at hexec
    obtain ⟨hframe, hgr, hestat⟩ :=
      State.mts_estat_spec s p.val (encSpr 1 1 f) v (State.stat_of_ready s hi.1)
    refine ⟨_, hexec, hframe, hgr, fun i hi32 => ?_⟩
    rw [hestat, Spr.bit_put_estat_user _ _ hm hi32]
  · rw [if_neg fun h => hdiff (h i hg)] at hexec
    refine ⟨fun hee => ⟨_, hexec, ?_⟩, fun hee => ⟨_, hexec, ?_⟩⟩
    · unfold State.cause
      rw [State.raise_enter s p.val _ _ _ _ _ hee (by decide)]
      exact State.enter_spec s p _ _ _ _ _
    · unfold State.cause
      rw [State.raise_lockup_u s p.val _ _ _ _ _ hee (by decide)]
      exact ⟨rfl, rfl, fun _ => rfl⟩

end Sys2Proof.Claims

/-! Sequential completion from any state of the unit, the causes and events that reach a waiting unit, and WAITT (R103,
R104, R145, R150). -/

namespace Sys2Proof.Machine

open Sys2Proof.Claims

variable (s : State)

/-! ### Sequential completion (R82, R100) -/

/-- A unit that completes runs, whatever it waited for. -/
theorem UnitSt.advance_of_run (x : UnitSt) (n : Nat) (loopStep : Bool) :
    x.advance n loopStep = { x with stat := .run }.advance n loopStep := rfl

theorem State.seq_endsFrom (p : UnitIx) (n : Nat) : EndsFrom (s.u p) (s.seq p n) p n := by
  obtain ⟨hq, wrap, hadv⟩ := UnitSt.advance_eq { s.u p with stat := .run } n rfl
  obtain ⟨d, hd⟩ := State.stepEnd_self (s.onU p fun x => x.advance n true) p
  rw [State.u_onU, if_pos rfl, UnitSt.advance_of_run, hadv] at hd
  exact ⟨hq, wrap, d, hd⟩

theorem State.seq_onlyUnit (p n : Nat) : OnlyUnit s (s.seq p n) p := by
  unfold State.seq
  refine ⟨?_, fun q hq => ?_, fun k hk => State.stepEnd_reg _ _ _ hk⟩
  · rw [State.stepEnd_frame]; rfl
  · rw [State.stepEnd_other _ _ hq, State.u_onU, if_neg hq]

theorem State.onU_unitOnly (p : Nat) (f : UnitSt → UnitSt) : UnitOnly s (s.onU p f) p :=
  ⟨rfl, fun q hq => by rw [State.u_onU, if_neg hq]⟩

/-- An instruction that changes its unit by `f` and completes ends from the state that `f` has made. -/
theorem State.onU_seq_endsFrom (p : UnitIx) (f : UnitSt → UnitSt) (n : Nat) :
    EndsFrom (f (s.u p)) ((s.onU p f).seq p n) p n := by
  have hends := (s.onU p f).seq_endsFrom p n
  rwa [State.u_onU, if_pos rfl] at hends

theorem State.onU_seq_onlyUnit (p : Nat) (f : UnitSt → UnitSt) (n : Nat) : OnlyUnit s ((s.onU p f).seq p n) p := by
  obtain ⟨-, hchange⟩ := s.onU_unitOnly p f
  obtain ⟨hframe, hother, hreg⟩ := (s.onU p f).seq_onlyUnit p n
  exact ⟨hframe, fun q hq => (hother q hq).trans (hchange q hq), hreg⟩

/-! ### A cause that reaches a unit (R134, R145, R150) -/

theorem State.enter_epc (p : UnitIx) (code sub : Nat) (epc info bad : Word) :
    ((s.enter p code sub epc info bad).u p).spr.epc = epc &&& ~~~1 := by
  obtain ⟨-, hepc, -⟩ := s.enter_spec p code sub epc info bad
  exact hepc

/-- Whichever pending cause ranks first, it is taken with the EPC given. -/
theorem State.takeAsync_epc (p : UnitIx) (epc : Word) (h : s.anyPend p = true) :
    ((s.takeAsync p epc).u p).spr.epc = epc &&& ~~~1 := by
  cases hwp : (s.u p).dbg.wp with
  | some w => simp only [State.takeAsync, hwp, State.enter_epc]
  | none =>
    cases hreq : (s.u p).dbg.req with
    | true => simp [State.takeAsync, hwp, hreq, State.enter_epc]
    | false =>
      cases hwdw : (s.u p).dbg.wdw with
      | some n => simp [State.takeAsync, hwp, hreq, hwdw, State.enter_epc]
      | none =>
        cases hl : (s.u p).lates with
        | cons a l => simp [State.takeAsync, hwp, hreq, hwdw, hl, State.enter_epc]
        | nil =>
          cases hsrc : s.srcBest p with
          | some i => simp [State.takeAsync, hwp, hreq, hwdw, hl, hsrc, State.enter_epc]
          | none => simp [State.anyPend, UnitSt.dbgPend, hwp, hreq, hwdw, hl, hsrc] at h

theorem State.anyPend_of_takeable {p : Nat} (h : s.takeable p = true) : s.anyPend p = true := by
  simp only [State.takeable, Bool.and_eq_true] at h
  exact h.2

/-- With EE = 0 a unit stands at no point where it takes an asynchronous cause. -/
theorem State.entryPoint_of_ee_false {p : Nat} (h : (s.u p).ee = false) : s.entryPoint p = false := by
  simp [State.entryPoint, State.takeable, h]

/-- A WAITT that waits is such a point. -/
theorem State.entryPoint_of_waitt {p : Nat} {d : DWord} (hs : (s.u p).stat = .waitt d) (hm : (s.u p).micro = none) :
    s.entryPoint p = (s.takeable p && s.unitUp p) := by
  simp [State.entryPoint, hs, hm]

/-! ### An event that reaches a unit (R103) -/

/-- An event sets the latch of a unit that does not sleep, and nothing else of it. -/
theorem State.event_u_of_not_wfe {p : Nat} (hup : s.unitUp p = true) (hl : (s.u p).locked = false)
    (hs : (s.u p).stat ≠ .wfe) : (s.event p).u p = { s.u p with evt := true } := by
  simp [State.event, State.wake, hup, hl, hs]

/-- An event that is on its way reaches its unit and is on its way no longer. -/
theorem exec_eventDelivery {p : UnitIx} {u : Nat} (hbit : s.eventBit p.val = some u)
    (hmem : u ∈ (s.c (cOf p.val)).sev) :
    exec (.eventDelivery p) s = .next
      ((s.onC (cOf p.val) fun x => { x with sev := x.sev.filter fun v => v ≠ u }).event p.val) := by
  show execEventDelivery p s = _
  simp only [execEventDelivery, hbit, hmem, if_true]

/-! ### WAITT (R104) -/

/-- The target of R104: rs2 × 2^32 + rs1. -/
theorem toNat_waittTarget (hi lo : Word) : (hi ++ lo : DWord).toNat = hi.toNat * 2 ^ 32 + lo.toNat := by
  rw [BitVec.toNat_append, ← Nat.shiftLeft_add_eq_or_of_lt lo.isLt, Nat.shiftLeft_eq]

/-- A WAITT that issues: the three rows of the table of R104. -/
theorem exec_waitt {p : UnitIx} {f : RF} (hrsv : f.rsv = 0) (hrd : f.rd = 0) (hi : Issues s p (eR 0x25 9 f)) :
    exec (.waitt p f) s = .next
      (if s.T < (gReg s p f.rs2).toNat * 2 ^ 32 + (gReg s p f.rs1).toNat then
        s.onU p.val fun x => { x with stat := .waitt (gReg s p f.rs2 ++ gReg s p f.rs1) }
      else if s.T = (gReg s p f.rs2).toNat * 2 ^ 32 + (gReg s p f.rs1).toNat then s.seq p.val 4
      else (s.onU p.val fun x => x.setS fun r => { r with estat := insBit r.estat 9 true }).seq p.val 4) := by
  obtain ⟨hready, hfetch, hwatch⟩ := hi
  show execWaitt p f s = _
  simp only [execWaitt]
  rw [State.issue_runs s p.val hready hfetch hwatch (by simp [rfBadIn, rfBad, hrsv, hrd]) rfl]
  simp only [← toNat_waittTarget]
  rfl

/-- The wait ends in the first cycle whose T has reached the target. -/
theorem exec_waittTargetReached {p : UnitIx} {d : DWord} (hs : (s.u p.val).stat = .waitt d) :
    exec (.waittTargetReached p) s = .next (if d.toNat ≤ s.T then s.seq p.val 4 else s) := by
  show execWaittTargetReached p s = _
  simp only [execWaittTargetReached, hs]

/-- LATE set to 1, and no other bit of ESTAT changed. -/
theorem bit_setLate_of_ne (e : Word) {i : Nat} (h : i ≠ 9) : bit (insBit e 9 true) i = bit e i := by
  by_cases hi : i < 32
  · rw [bit_insBit _ _ _ _ hi, if_neg h]
  · have hle : 32 ≤ i := Nat.le_of_not_lt hi
    exact (BitVec.getLsbD_of_ge _ _ hle).trans (BitVec.getLsbD_of_ge _ _ hle).symm

end Sys2Proof.Machine

namespace Sys2Proof.Claims

open Sys2Proof.Machine

/-- Settles O13: the three rows of R104 by comparison of T with the target, then the wait itself: its end, a cause, and an
event. -/
theorem waitForTime : Obligations.WaitForTime := by
  unfold Obligations.WaitForTime
  refine ⟨fun s p f hrsv hrd hi => ?_, fun s p d hs hle => ?_, fun s p d hs hlt => ?_,
    fun s p d hs htake hup hmicro => ?_, fun s p d hs hee => ?_, fun s p d u hs hbit hmem hup hlocked => ?_⟩
  case refine_1 =>
    refine ⟨_, exec_waitt s hrsv hrd hi, fun hlt => ?_, fun heq => ?_, fun hgt => ?_⟩
    · rw [if_pos hlt]
      exact ⟨s.onU_unitOnly p.val _, _, toNat_waittTarget _ _, (State.u_onU ..).trans (if_pos rfl)⟩
    · rw [if_neg heq.not_lt, if_pos heq]
      exact ⟨s.seq_onlyUnit p.val 4, s.seq_endsFrom p 4⟩
    · rw [if_neg hgt.not_gt, if_neg hgt.ne']
      exact ⟨s.onU_seq_onlyUnit p.val _ 4, insBit (s.u p.val).spr.estat 9 true, bit_insBit _ 9 9 true (by decide),
        fun i hne => bit_setLate_of_ne _ hne, s.onU_seq_endsFrom p _ 4⟩
  case refine_2 =>
    rw [exec_waittTargetReached s hs, if_pos hle]
    exact ⟨_, rfl, s.seq_onlyUnit p.val 4, s.seq_endsFrom p 4⟩
  case refine_3 => rw [exec_waittTargetReached s hs, if_neg (Nat.not_le.mpr hlt)]
  case refine_4 =>
    have hpoint : s.entryPoint p.val = true := by rw [s.entryPoint_of_waitt hs hmicro, htake, hup]; rfl
    refine ⟨s.takeAsync p.val (s.u p.val).pc, ?_, s.takeAsync_epc p _ (s.anyPend_of_takeable htake)⟩
    show execExceptionEntry p s = _
    rw [execExceptionEntry, if_pos hpoint]
  case refine_5 =>
    show execExceptionEntry p s = _
    rw [execExceptionEntry, s.entryPoint_of_ee_false hee]
    rfl
  case refine_6 =>
    have hwait : (s.u p.val).stat ≠ .wfe := by simp [hs]
    exact ⟨_, exec_eventDelivery s hbit hmem, State.event_u_of_not_wfe _ hup hlocked hwait⟩

end Sys2Proof.Claims

/-! Checkpoints and the check latches of the Negative page (R291 to R294), and register writes that reach their page. -/

namespace Sys2Proof.Machine

open Sys2Proof.Claims

variable (s : State)

/-! ### Sequences of actions -/

/-- What every action of a sequence keeps, the sequence keeps. -/
theorem each_keeps {σ ι : Type} {P : σ → Prop} {f : ι → σ → σ} {l : List ι} {x : σ}
    (hkeep : ∀ i ∈ l, ∀ y, P y → P (f i y)) (hx : P x) : P (each l f x) :=
  List.foldlRecOn l _ hx fun y hy i hi => hkeep i hi y hy

/-- What one action of a sequence brings about, where the other actions neither spoil its condition nor its outcome,
holds after the sequence. -/
theorem each_reaches {σ ι : Type} {P Q : σ → Prop} {f : ι → σ → σ} {l : List ι} {x : σ} {i : ι} (hi : i ∈ l)
    (hact : ∀ y, P y → Q (f i y)) (hP : ∀ j ∈ l, ∀ y, P y → P (f j y)) (hQ : ∀ j ∈ l, ∀ y, Q y → Q (f j y))
    (hx : P x) : Q (each l f x) := by
  obtain ⟨before, after, rfl⟩ := List.append_of_mem hi
  have hsplit : each (before ++ i :: after) f x = each after f (f i (each before f x)) := by simp [each]
  rw [hsplit]
  have hbefore : P (each before f x) := each_keeps (fun j hj => hP j (List.mem_append_left _ hj)) hx
  exact each_keeps (fun j hj => hQ j (List.mem_append_right _ (List.mem_cons_of_mem i hj))) (hact _ hbefore)

/-! ### Registers by page and offset -/

/-- Within a page of 4096 bytes the key of a register is its page and its word. -/
theorem rkey_eq_iff {p q o x : Nat} (ho : o < 4096) (hx : x < 4096) : rkey p o = rkey q x ↔ p = q ∧ o / 4 = x / 4 := by
  unfold rkey
  omega

theorem rkey_ne_of_page {p q o x : Nat} (ho : o < 4096) (hx : x < 4096) (h : p ≠ q) : rkey p o ≠ rkey q x :=
  fun hkey => h ((rkey_eq_iff ho hx).mp hkey).1

theorem pgCommon_ne_pgNeg (c d : Nat) : pgCommon c ≠ pgNeg d := by
  unfold pgCommon pgNeg
  omega

theorem pgNeg_ne_pgUnit (p : UnitIx) (g : Nat) : pgNeg (cOf p.val) ≠ pgUnit g := by
  have := p.isLt
  unfold pgNeg pgUnit cOf
  omega

theorem pgCommon_ne_pgUnit (p : UnitIx) (g : Nat) : pgCommon (cOf p.val) ≠ pgUnit g := by
  have := p.isLt
  unfold pgCommon pgUnit cOf
  omega

theorem State.reg_setReg_ne {p off q o : Nat} (v : Word) (h : rkey q o ≠ rkey p off) :
    (s.setReg p off v).reg q o = s.reg q o := by
  rw [State.reg_setReg, if_neg h]

/-- A write of one field leaves every disjoint field, of the same register or of another. -/
theorem State.rfld_setFld_disjoint (p off lo len v q o a n : Nat) (h : a + n ≤ lo ∨ lo + len ≤ a) (hn : a + n ≤ 32) :
    (s.setFld p off lo len v).rfld q o a n = s.rfld q o a n := by
  unfold State.rfld State.setFld
  rw [State.reg_setReg]
  split
  · next hkey =>
    have hsame : s.reg q o = s.reg p off := by unfold State.reg; rw [hkey]
    rw [fld_ins_disjoint _ _ _ _ _ _ h hn, hsame]
  · rfl

/-- A write by the access codes changes its own register alone. -/
theorem genWrite_reg_ne (k : PK) {p off q o : Nat} (v : Word) (h : rkey q o ≠ rkey p off) :
    (genWrite k p off v s).reg q o = s.reg q o := by
  unfold genWrite
  split
  · rfl
  · exact s.reg_setReg_ne _ h

/-! ### Writes that reach their page (R358, R408, R422) -/

theorem State.pageTaken_reg (k : PK) (p q o : Nat) : (s.pageTaken k p).reg q o = s.reg q o := by
  unfold State.pageTaken
  split <;> rfl

/-- A write that reaches a page of no control store is made at once. -/
theorem State.put_of_reaches {m : Master} {page off : Nat} {v : Word} {timeout : Bool} {bad : Option Nat}
    (h : WriteReaches s m page) (hstore : s.storeBusy page off = false) :
    s.put m page off v timeout bad = s.putNow m page off v timeout bad := by
  obtain ⟨-, -, -, hheld⟩ := h
  have hslave : ¬(m = .host ∧ s.hostBusy = true) := by
    rintro ⟨rfl, hbusy⟩
    simp [State.pageHeld, hbusy] at hheld
  simp [State.put, hslave, hheld, hstore]

/-- A write of a body register that reaches its page is what the body of the page makes of it. -/
theorem pageWrite_of_reaches {m : Master} {page off i : Nat} {k : PK} {v : Word} {timeout : Bool} {bad : Option Nat}
    (h : WriteReaches s m page) (hkind : kindOf page = some (k, i)) (hbody : 0x040 ≤ off) :
    pageWrite m page off v timeout bad s =
      bodyWrite m k i (s.physPage page) off v timeout bad (s.pageTaken k (s.physPage page)) := by
  obtain ⟨-, hserved, hunlocked, -⟩ := h
  have hopen : (s.pageTaken k (s.physPage page)).rbit (s.physPage page) pgCtl 31 = false := by
    unfold State.rbit
    rw [State.pageTaken_reg]
    exact hunlocked
  simp [pageWrite, hkind, hserved, hopen, Nat.not_lt.mpr hbody]

/-- The registers after a write that raises nothing at its master are those that the page leaves. -/
theorem State.putNow_reg {m : Master} {page off : Nat} {v : Word} {timeout : Bool} {bad : Option Nat} {t : State}
    (h : s.reaches m page = true) (hwrite : pageWrite m page off v timeout bad s = (t, none)) (q o : Nat) :
    (s.putNow m page off v timeout bad).reg q o = t.reg q o := by
  unfold State.putNow
  rw [if_pos h, hwrite]
  cases m <;> rfl

theorem kindOf_pgNeg (c : ClusterIx) : kindOf (pgNeg c.val) = some (.neg, c.val) := by
  revert c
  decide

theorem State.physPage_pgNeg (c : ClusterIx) : s.physPage (pgNeg c.val) = pgNeg c.val := by
  simp [State.physPage, kindOf_pgNeg]

/-- The registers after a write that reaches a body register of the Negative page. -/
theorem State.put_pgNeg_reg {m : Master} {c : ClusterIx} {off : Nat} (v : Word) (h : WriteReaches s m (pgNeg c.val))
    (hbody : 0x040 ≤ off) (q o : Nat) :
    (s.put m (pgNeg c.val) off v false none).reg q o = (negWrite c.val off v (onPage s (pgNeg c.val))).reg q o := by
  have hstore : s.storeBusy (pgNeg c.val) off = false := by simp [State.storeBusy, kindOf_pgNeg]
  rw [s.put_of_reaches h hstore]
  refine s.putNow_reg h.1 ?_ q o
  rw [pageWrite_of_reaches s h (kindOf_pgNeg c) hbody, State.physPage_pgNeg]
  rfl

/-! ### Retention registers and check latches (R293, R294) -/

variable {c e k u : Nat}

theorem negWrite_ngret (v : Word) (he : e < 5) (hk : k < 16) :
    negWrite c (0x200 + 64 * e + 4 * k) v s = s.ngret c e k v := by
  have hctl : 0x200 + 64 * e + 4 * k ≠ 0x040 := by omega
  have hret : 0x200 ≤ 0x200 + 64 * e + 4 * k ∧ 0x200 + 64 * e + 4 * k < 0x340 := by omega
  have hreel : (0x200 + 64 * e + 4 * k - 0x200) / 64 = e := by omega
  have hslot : (0x200 + 64 * e + 4 * k - 0x200) % 64 / 4 = k := by omega
  simp only [negWrite, if_neg hctl, if_pos hret, hreel, hslot]

theorem rE_reel (he : e < 5) : rE (5 * c + e) = e := by
  unfold rE
  omega

/-- The offset of NGRET of a Reel's slot. -/
theorem offRet_reel (he : e < 5) : offRet (5 * c + e) k = 0x200 + 64 * e + 4 * k := by
  unfold offRet
  rw [rE_reel he]

theorem offRet_lt (r : Nat) (hk : k < 16) : offRet r k < 0x400 := by
  unfold offRet rE
  omega

/-- A write of NGRET with EN = 1 latches FXQCCW. -/
theorem State.ngret_latches (v : Word) (he : e < 5) (hk : k < 16) (hen : bit v 31 = true) :
    (s.ngret c e k v).reg (pgNeg c) (0x400 + 64 * e + 4 * k) = s.reg (pgCommon c) (0x400 + 64 * e + 4 * k) := by
  have hother : rkey (pgCommon c) (0x400 + 64 * e + 4 * k) ≠ rkey (pgNeg c) (offRet (5 * c + e) k) :=
    rkey_ne_of_page (by omega) ((offRet_lt _ hk).trans (by decide)) (pgCommon_ne_pgNeg c c)
  simp only [State.ngret, if_pos hen, offLatch, rE_reel he, State.reg_setReg_same]
  exact genWrite_reg_ne s _ _ hother

/-- Freeing retained entries changes no register but a NGRET. -/
theorem State.freeRet_reg {q o : Nat} (r : Nat) (h : rkey q o ≠ rkey (pgNeg (rC r)) (offRet r k)) :
    (s.freeRet r k).reg q o = s.reg q o :=
  State.reg_setReg_ne _ _ h

/-- NGRET keeps its READER when its entries are freed. -/
theorem State.freeRet_reader (r q o : Nat) : (s.freeRet r k).rfld q o 24 3 = s.rfld q o 24 3 :=
  State.rfld_setFld_disjoint _ _ _ 0 5 _ _ _ 24 3 (by decide) (by decide)

/-- What a checkpoint, or with `latch` false a reset, of logical unit `u` does to one slot. -/
def State.freeSlot (s : State) (c u : Nat) (latch : Bool) (e k : Nat) : State :=
  if s.rfld (pgNeg c) (0x200 + 64 * e + 4 * k) 24 3 = u then
    let t := s.freeRet (5 * c + e) k
    if latch then t.setReg (pgNeg c) (0x400 + 64 * e + 4 * k) (t.reg (pgCommon c) (0x400 + 64 * e + 4 * k)) else t
  else s

theorem State.freeReader_eq (c u : Nat) (latch : Bool) :
    s.freeReader c u latch =
      each (List.range 5) (fun e t => each (List.range 16) (fun k t => t.freeSlot c u latch e k) t) s := rfl

/-- NGRET of the slot names logical unit `u`, and the slot's FXQCCW holds `w`. -/
def NamesReader (c e k u : Nat) (w : Word) (t : State) : Prop :=
  t.rfld (pgNeg c) (0x200 + 64 * e + 4 * k) 24 3 = u ∧ t.reg (pgCommon c) (0x400 + 64 * e + 4 * k) = w

/-- The slot's FXQCCW and its NGRCK both hold `w`. -/
def HoldsCheck (c e k : Nat) (w : Word) (t : State) : Prop :=
  t.reg (pgCommon c) (0x400 + 64 * e + 4 * k) = w ∧ t.reg (pgNeg c) (0x400 + 64 * e + 4 * k) = w

theorem State.freeSlot_of_other (h : s.rfld (pgNeg c) (0x200 + 64 * e + 4 * k) 24 3 ≠ u) (latch : Bool) :
    s.freeSlot c u latch e k = s := if_neg h

/-- FXQCCW stays as it is when retained entries are freed. -/
theorem State.freeRet_pgCommon {o : Nat} (r : Nat) (hk : k < 16) (ho : o < 4096) :
    (s.freeRet r k).reg (pgCommon c) o = s.reg (pgCommon c) o :=
  s.freeRet_reg r (rkey_ne_of_page ho ((offRet_lt r hk).trans (by decide)) (pgCommon_ne_pgNeg _ _))

/-- A checkpoint of the reader of a slot frees the slot's retained entries and latches FXQCCW. -/
theorem State.freeSlot_of_reader (he : e < 5) (hk : k < 16)
    (h : s.rfld (pgNeg c) (0x200 + 64 * e + 4 * k) 24 3 = u) :
    s.freeSlot c u true e k = (s.freeRet (5 * c + e) k).setReg (pgNeg c) (0x400 + 64 * e + 4 * k)
      (s.reg (pgCommon c) (0x400 + 64 * e + 4 * k)) := by
  rw [State.freeSlot, if_pos h, if_pos rfl, s.freeRet_pgCommon _ hk (by omega)]

theorem State.freeSlot_pgCommon {o : Nat} (he : e < 5) (hk : k < 16) (ho : o < 4096) :
    (s.freeSlot c u true e k).reg (pgCommon c) o = s.reg (pgCommon c) o := by
  by_cases hreader : s.rfld (pgNeg c) (0x200 + 64 * e + 4 * k) 24 3 = u
  · rw [s.freeSlot_of_reader he hk hreader,
      State.reg_setReg_ne _ _ (rkey_ne_of_page ho (by omega) (pgCommon_ne_pgNeg c c)), s.freeRet_pgCommon _ hk ho]
  · rw [s.freeSlot_of_other hreader]

/-- Freeing a slot leaves the READER of every NGRET. -/
theorem NamesReader.freeSlot {w : Word} {t : State} {e' k' : Nat} (he : e < 5) (hk : k < 16) (he' : e' < 5) (hk' : k' < 16)
    (h : NamesReader c e k u w t) : NamesReader c e k u w (t.freeSlot c u true e' k') := by
  obtain ⟨hnamed, hlatch⟩ := h
  refine ⟨?_, (t.freeSlot_pgCommon he' hk' (by omega)).trans hlatch⟩
  by_cases hreader : t.rfld (pgNeg c) (0x200 + 64 * e' + 4 * k') 24 3 = u
  · have hret : rkey (pgNeg c) (0x200 + 64 * e + 4 * k) ≠ rkey (pgNeg c) (0x400 + 64 * e' + 4 * k') := by
      rw [Ne, rkey_eq_iff (by omega) (by omega)]
      omega
    rw [t.freeSlot_of_reader he' hk' hreader, State.rfld, State.reg_setReg_ne _ _ hret]
    exact (t.freeRet_reader ..).trans hnamed
  · rwa [t.freeSlot_of_other hreader]

/-- A slot latches its own FXQCCW, so that no slot spoils a check latch that equals FXQCCW. -/
theorem HoldsCheck.freeSlot {w : Word} {t : State} {e' k' : Nat} (he : e < 5) (hk : k < 16) (he' : e' < 5) (hk' : k' < 16)
    (h : HoldsCheck c e k w t) : HoldsCheck c e k w (t.freeSlot c u true e' k') := by
  obtain ⟨hlatch, hcheck⟩ := h
  refine ⟨(t.freeSlot_pgCommon he' hk' (by omega)).trans hlatch, ?_⟩
  by_cases hreader : t.rfld (pgNeg c) (0x200 + 64 * e' + 4 * k') 24 3 = u
  · have hret : rkey (pgNeg c) (0x400 + 64 * e + 4 * k) ≠ rkey (pgNeg (rC (5 * c + e'))) (offRet (5 * c + e') k') := by
      have hoff := offRet_lt (5 * c + e') hk'
      rw [Ne, rkey_eq_iff (by omega) (by omega)]
      omega
    rw [t.freeSlot_of_reader he' hk' hreader, State.reg_setReg]
    split
    · next hkey =>
      obtain ⟨-, hword⟩ := (rkey_eq_iff (by omega) (by omega)).mp hkey
      have hslot : 0x400 + 64 * e' + 4 * k' = 0x400 + 64 * e + 4 * k := by omega
      rw [hslot, hlatch]
    · rw [t.freeRet_reg _ hret, hcheck]
  · rwa [t.freeSlot_of_other hreader]

theorem NamesReader.holdsCheck {w : Word} {t : State} (he : e < 5) (hk : k < 16) (h : NamesReader c e k u w t) :
    HoldsCheck c e k w (t.freeSlot c u true e k) := by
  obtain ⟨hreader, hlatch⟩ := h
  refine ⟨(t.freeSlot_pgCommon he hk (by omega)).trans hlatch, ?_⟩
  rw [t.freeSlot_of_reader he hk hreader, State.reg_setReg_same, hlatch]

/-- The checkpoint of a logical unit latches FXQCCW in each slot whose NGRET names the unit. -/
theorem State.freeReader_latches (he : e < 5) (hk : k < 16)
    (h : s.rfld (pgNeg c) (0x200 + 64 * e + 4 * k) 24 3 = u) :
    (s.freeReader c u true).reg (pgNeg c) (0x400 + 64 * e + 4 * k) =
      s.reg (pgCommon c) (0x400 + 64 * e + 4 * k) := by
  have hslots : ∀ k' ∈ List.range 16, k' < 16 := fun _ => List.mem_range.mp
  have hreels : ∀ e' ∈ List.range 5, e' < 5 := fun _ => List.mem_range.mp
  have hnamed : NamesReader c e k u (s.reg (pgCommon c) (0x400 + 64 * e + 4 * k)) s := ⟨h, rfl⟩
  have hlatched : HoldsCheck c e k (s.reg (pgCommon c) (0x400 + 64 * e + 4 * k)) (s.freeReader c u true) := by
    rw [State.freeReader_eq]
    refine each_reaches (List.mem_range.mpr he) (fun t ht => ?_) (fun e' he' t ht => ?_) (fun e' he' t ht => ?_) hnamed
    · exact each_reaches (List.mem_range.mpr hk) (fun _ => NamesReader.holdsCheck he hk)
        (fun k' hk' _ => NamesReader.freeSlot he hk he (hslots k' hk'))
        (fun k' hk' _ => HoldsCheck.freeSlot he hk he (hslots k' hk')) ht
    · exact each_keeps (fun k' hk' _ => NamesReader.freeSlot he hk (hreels e' he') (hslots k' hk')) ht
    · exact each_keeps (fun k' hk' _ => HoldsCheck.freeSlot he hk (hreels e' he') (hslots k' hk')) ht
  exact hlatched.2

/-! ### The end of a checkpoint (R291) -/

/-- Sequential completion leaves the registers of every page but the unit's own. -/
theorem State.onU_seq_reg (p : UnitIx) (f : UnitSt → UnitSt) (n : Nat) {q o : Nat} (ho : o < 4096)
    (hq : q ≠ pgUnit p.val) : ((s.onU p.val f).seq p.val n).reg q o = s.reg q o := by
  obtain ⟨-, -, hreg⟩ := s.onU_seq_onlyUnit p.val f n
  exact hreg _ (rkey_ne_of_page ho (by decide) hq)

theorem State.onU_seq_logU (p q : Nat) (f : UnitSt → UnitSt) (n : Nat) :
    ((s.onU p f).seq p n).logU q = s.logU q := by
  obtain ⟨hframe, -, -⟩ := s.onU_seq_onlyUnit p f n
  rw [hframe]
  rfl

/-- The end of a checkpoint writes registers of the Negative page below 0x100, those of the unit's slots, before it
turns to the retention registers. -/
theorem State.ckptDone_eq_freeReader (p : Nat) (hu : s.logU p < 8) :
    ∃ t : State, s.ckptDone p = t.freeReader (cOf p) (s.logU p) true ∧
      ∀ q o, (∀ x < 0x100, rkey q o ≠ rkey (pgNeg (cOf p)) x) → t.reg q o = s.reg q o := by
  refine ⟨_, rfl, fun q o hkey => ?_⟩
  have hslot : offSlot (s.logU p) + 8 < 0x100 := by
    unfold offSlot
    omega
  rw [State.reg_setReg_ne _ _ (hkey _ hslot), State.reg_setReg_ne _ _ (hkey _ (by omega)),
    State.reg_setReg_ne _ _ (hkey _ (by omega)), State.reg_onC]

theorem State.ckptDone_latches (p : Nat) (he : e < 5) (hk : k < 16)
    (h : s.rfld (pgNeg (cOf p)) (0x200 + 64 * e + 4 * k) 24 3 = s.logU p) :
    (s.ckptDone p).reg (pgNeg (cOf p)) (0x400 + 64 * e + 4 * k) =
      s.reg (pgCommon (cOf p)) (0x400 + 64 * e + 4 * k) := by
  have hu : s.logU p < 8 := h ▸ fld_lt _ 24 3
  obtain ⟨t, hdone, hreg⟩ := s.ckptDone_eq_freeReader p hu
  have hbeyond : ∀ q o, 0x200 ≤ o → o < 4096 → t.reg q o = s.reg q o := by
    intro q o hlow hhigh
    refine hreg q o fun x hx => ?_
    rw [Ne, rkey_eq_iff hhigh (by omega)]
    omega
  have hreader : t.rfld (pgNeg (cOf p)) (0x200 + 64 * e + 4 * k) 24 3 = s.logU p := by
    rw [State.rfld, hbeyond _ _ (by omega) (by omega)]
    exact h
  rw [hdone, t.freeReader_latches he hk hreader, hbeyond _ _ (by omega) (by omega)]

theorem exec_checkpointComplete {p : UnitIx} {len : Nat} (h : (s.u p.val).stat = .ckpt len) :
    exec (.checkpointComplete p) s = .next (((s.onU p.val UnitSt.flushProds).seq p.val len).ckptDone p.val) := by
  show execCheckpointComplete p s = _
  simp only [execCheckpointComplete, h]

end Sys2Proof.Machine

namespace Sys2Proof.Claims

open Sys2Proof.Machine

/-- Settles O43: the walk over the retention registers latches every slot that names the reader, and a write of NGRET with
EN = 1 that reaches its page latches its own slot. -/
theorem checkValueLatches : Obligations.CheckValueLatches := by
  unfold Obligations.CheckValueLatches
  refine ⟨fun s p e k len hstat hreader => ?_, fun s m c e k v hreach hen => ?_⟩
  · refine ⟨_, exec_checkpointComplete s hstat, ?_⟩
    have hneg : ∀ o < 4096, ((s.onU p.val UnitSt.flushProds).seq p.val len).reg (pgNeg (cOf p.val)) o =
        s.reg (pgNeg (cOf p.val)) o :=
      fun o ho => s.onU_seq_reg p _ len ho (pgNeg_ne_pgUnit p p.val)
    rw [State.ckptDone_latches _ p.val e.isLt k.isLt]
    · exact s.onU_seq_reg p _ len (by omega) (pgCommon_ne_pgUnit p p.val)
    · rw [State.rfld, hneg _ (by omega), State.onU_seq_logU]
      exact hreader
  · refine ⟨_, rfl, ?_⟩
    rw [s.put_pgNeg_reg v hreach (by omega), negWrite_ngret _ v e.isLt k.isLt,
      State.ngret_latches _ v e.isLt k.isLt hen]
    rfl

end Sys2Proof.Claims
